-- ==== Sys2Proof/Word.lean ====
section
/-! DEFINITION. The words of the block: timestamps and widths (`TW` = 32 bits, `00_scope.md` R12), bytes, channel
numbers, and one value per channel (`est[c]`, `lw[c]`, `upd[c]`, `sig[c]`). -/

namespace Sys2Proof

/-- A timestamp or a pulse width in microseconds: `TW` = 32 bits (`00_scope.md` R12; log entry 4, DESIGN CHOICE). -/
abbrev Word := BitVec 32

/-- An OP8 word (`30_encoding.md` R80), and an output level (`10_state.md` R34). -/
abbrev Byte := BitVec 8

/-- A channel number: 0 brightness, 1 power, 2 hue (`00_scope.md` R12). -/
abbrev Chan := Fin 3

/-- One value for each of the three channels (`00_scope.md` R11, `N_CH` = 3). -/
structure PerChan (α : Type) where
  c0 : α
  c1 : α
  c2 : α
deriving DecidableEq, Repr

/-- What the capture function of `40_capture.md` R100 returns, at timestamp width `n`. -/
structure Captured (n : Nat) where
  est : BitVec n
  lw : BitVec n
  upd : Bool
  /-- what the call emits; it is not stored beyond `lw` and `upd` -/
  result : Option (BitVec n)
deriving DecidableEq, Repr

/-- Three 8-bit colour levels (`43_color.md` R164). -/
structure Rgb where
  r : Byte
  g : Byte
  b : Byte
deriving DecidableEq, Repr

end Sys2Proof
end

