-- ==== Sys2Proof/Config.lean ====
section
/-! DEFINITION. The constants that an instance of the hardware fixes and the source leaves open (`00_scope.md` R12):
`CHG_CH`, `TICK` and the three reset values of DerivedState. State carries them in a field that nothing writes, so that
a statement about every state is one about every instance (log entry 5). -/

namespace Sys2Proof

/-- The trigger mode of a channel (`10_state.md` R26). -/
inductive Mode where
  | dual
  | change
deriving DecidableEq, Repr

/-- `powerState` (`10_state.md` R29): an enumeration, as `92_eei_decisions.md` D14 asks. -/
inductive Power where
  | noSignal
  | off
  | on
deriving DecidableEq, Repr

/-- The parameters of one instance (`00_scope.md` R12). -/
structure Params where
  /-- `CHG_CH`, the one change-only channel -/
  chgCh : Chan
  /-- `TICK`, the clock's granularity in microseconds -/
  tick : Nat
  /-- `RESET_BRI` -/
  resetBri : Byte
  /-- `RESET_PWR` -/
  resetPwr : Power
  /-- `RESET_HUE` -/
  resetHue : BitVec 9
deriving DecidableEq, Repr

/-- The values `00_scope.md` R12 takes. -/
def Params.standard : Params :=
  { chgCh := 2, tick := 1, resetBri := 0, resetPwr := .noSignal, resetHue := 0 }

/-- Exactly one channel is `CHANGE` and the two others are `DUAL` (`10_state.md` R26). -/
def Params.mode (p : Params) (c : Chan) : Mode :=
  if c = p.chgCh then .change else .dual

end Sys2Proof
end

