-- ==== Sys2Proof/Syntax.lean ====
section
/-! DEFINITION. The nine operations of OPSET-1 (`00_scope.md` R3, `30_encoding.md` R83), the two contexts that issue
them, and the actions of a trace (`30_encoding.md` R86, R87). -/

namespace Sys2Proof

/-- The operations, one constructor per row of `spec/opcode_table.json`. -/
inductive Instr where
  | edge (c : Chan)
  | chg
  | poll (c : Chan)
  | read (c : Chan)
  | clr (c : Chan)
  | ibrt
  | ipwr
  | ihue
  | rgb
deriving DecidableEq, Repr

/-- The two execution contexts (`60_exceptions.md` R191). -/
inductive Context where
  | handler
  | main
deriving DecidableEq, Repr

/-- Which context issues an operation (`30_encoding.md` R83, R85). -/
def Instr.context : Instr → Context
  | .edge _ => .handler
  | .chg => .handler
  | .poll _ => .main
  | .read _ => .main
  | .clr _ => .main
  | .ibrt => .main
  | .ipwr => .main
  | .ihue => .main
  | .rgb => .main

/-- One action of one agent: a line of a trace (`30_encoding.md` R86, R87), or a turn of the main context
(`41_handoff.md` R120). -/
inductive Event where
  /-- `rst` is asserted, `.reset` -/
  | rst
  /-- `.time t` -/
  | time (t : Nat)
  /-- `.tick d`: d microseconds pass -/
  | tick (d : Nat)
  /-- `.sig c, v`: input c is now at level v -/
  | sig (c : Chan) (v : Bool)
  /-- an operation line: the arrival of the notification whose handler word this is, or the claim that the main
  context's next word is this one -/
  | line (w : Byte)
  /-- the main context executes whatever `ROM[phase]` is -/
  | main
deriving DecidableEq, Repr

end Sys2Proof
end

