-- ==== Sys2Proof/WellFormed.lean ====
section
/-! DEFINITION. Which operations an instance of the hardware has (`30_encoding.md` R84), and which parameters make an
instance (`00_scope.md` R12). -/

namespace Sys2Proof

/-- `EDGE CHG_CH` is reserved although its bits are well formed; every other term of `Instr` is an operation of the
instance (`30_encoding.md` R84). A channel number 3 and nonzero `z` bits have no term. -/
def Instr.wf (p : Params) : Instr → Bool
  | .edge c => decide (p.mode c = .dual)
  | .chg => true
  | .poll _ => true
  | .read _ => true
  | .clr _ => true
  | .ibrt => true
  | .ipwr => true
  | .ihue => true
  | .rgb => true

/-- The clock advances by a positive granularity (`92_eei_decisions.md` D4), and `hueAngle` starts in its range 0 to 360
(`10_state.md` R30). -/
def Params.wf (p : Params) : Bool :=
  decide (0 < p.tick) && decide (p.resetHue.toNat ≤ 360)

end Sys2Proof
end

