-- ==== Sys2Proof/Decode.lean ====
section
/-! DEFINITION. The decoder of OP8, total on all 256 bytes (`30_encoding.md` R92), and the encoder, written from the
same table (`30_encoding.md` R83). -/

namespace Sys2Proof

/-- Why a word is reserved (`30_encoding.md` R84), by name. -/
inductive Reject where
  /-- `z` is not `0b00` -/
  | zField
  /-- `ch` is `0b11` -/
  | channelThree
  /-- `opc` is none of 1, 2, 4, 5, 6, 7, 8 -/
  | opcode
  /-- `CHG` or `RGB` with a nonzero `ch` -/
  | channelOfNone
  /-- `EDGE CHG_CH` -/
  | edgeOnChangeOnly
deriving DecidableEq, Repr

/-- `opc`, bits 7:4 (`30_encoding.md` R80). -/
def opcField (b : Byte) : Nat := (b.extractLsb' 4 4).toNat

/-- `ch`, bits 3:2. -/
def chField (b : Byte) : Nat := (b.extractLsb' 2 2).toNat

/-- `z`, bits 1:0. -/
def zField (b : Byte) : Nat := (b.extractLsb' 0 2).toNat

/-- The channel a `ch` field names, if any (`30_encoding.md` R80: 0 to 2). -/
def chanOf (n : Nat) : Option Chan :=
  match n with
  | 0 => some 0
  | 1 => some 1
  | 2 => some 2
  | _ => none

/-- `opc` = 7: `ch` selects the policy (`30_encoding.md` R82). -/
def policyOf (c : Chan) : Instr :=
  match c with
  | 0 => .ibrt
  | 1 => .ipwr
  | 2 => .ihue

/-- The decoding procedure of `30_encoding.md` R92, for an instance of the hardware. -/
def decode (p : Params) (b : Byte) : Except Reject Instr :=
  if zField b ≠ 0 then .error .zField
  else
    match chanOf (chField b) with
    | none => .error .channelThree
    | some c =>
      match opcField b with
      | 1 => if p.mode c = .change then .error .edgeOnChangeOnly else .ok (.edge c)
      | 2 => if c = 0 then .ok .chg else .error .channelOfNone
      | 4 => .ok (.poll c)
      | 5 => .ok (.read c)
      | 6 => .ok (.clr c)
      | 7 => .ok (policyOf c)
      | 8 => if c = 0 then .ok .rgb else .error .channelOfNone
      | _ => .error .opcode

/-- The word with the given fields (`30_encoding.md` R81: `oooo cc 00`). -/
def op8 (opc : BitVec 4) (c : Chan) : Byte :=
  opc ++ BitVec.ofNat 2 c.val ++ 0#2

/-- The word of an operation (`30_encoding.md` R83). -/
def encode : Instr → Byte
  | .edge c => op8 1 c
  | .chg => op8 2 0
  | .poll c => op8 4 c
  | .read c => op8 5 c
  | .clr c => op8 6 c
  | .ibrt => op8 7 0
  | .ipwr => op8 7 1
  | .ihue => op8 7 2
  | .rgb => op8 8 0

/-- The instruction's byte in the numbering of `spec/opcode_table.json`: bits 7..0 of `w`, of which the row gives
`nbits`. -/
def tableByte (nbits w : Nat) : Byte := BitVec.ofNat 8 (w % 2 ^ nbits)

/-- The instruction the decoder of the standard instance reads from a word of the table. -/
def decodeTableWord (nbits w : Nat) : Option Instr :=
  match decode Params.standard (tableByte nbits w) with
  | .ok i => some i
  | .error _ => none

end Sys2Proof
end

