-- ==== Sys2Proof/Machine/State.lean ====
section
/-! DEFINITION. The state of the block (`10_state.md` R20), its inputs (R37, R38), the parameters of the instance and
the actions still to come; the reasons a step can stop; the state after reset (`10_state.md` R41 to R43). -/

namespace Sys2Proof.Machine

/-- The block raises no exception, faults, traps or halts (`60_exceptions.md` R180): there is no fault to name. -/
inductive Fault where
deriving DecidableEq, Repr

/-- Why an operation is one the hardware cannot perform (`00_scope.md` section 6, `refuse`). -/
inductive Refusal where
  /-- raised by exec for an instruction that has no meaning yet (none here); safe -/
  | notModelled (mnemonic : String)
  /-- raised by fetching a word the decoder rejects, for the reason named (`30_encoding.md` R84); safe -/
  | reservedWord (why : Reject)
  /-- raised by `EDGE` on the change-only channel, which has no dual-edge notification input (`30_encoding.md` R84);
  safe -/
  | edgeOnChangeOnly
  /-- raised by a main operation that is not the one at `ROM[phase]` (`30_encoding.md` R85); safe -/
  | notRomWord
  /-- raised by the main context in a state with `phase` 13 to 15, which no run from reset reaches
  (`93_implementation_defined.md` U22); safe -/
  | phaseOutsideRom
deriving DecidableEq, Repr

/-- The whole state. Register names are those of `10_state.md` R20. -/
structure State where
  /-- the instance's constants; the model's own field, written by nothing (log entry 5) -/
  cfg : Params
  /-- the actions the environment and the scheduler still choose, oldest first; with none left the main context steps;
  the model's own field (log entry 1) -/
  sched : List Event
  /-- the clock, an input (R37) -/
  T : Word
  /-- the levels of the three signal sources, inputs, HIGH = true (R38) -/
  sig : PerChan Bool
  /-- `edgeStartTime` (R21) -/
  est : PerChan Word
  /-- `lastWidth` (R22) -/
  lw : PerChan Word
  /-- `updated` (R23) -/
  upd : PerChan Bool
  /-- `lastLevel` of the change-only channel, HIGH = true (R24) -/
  ll : Bool
  /-- `brightnessLevel` (R28) -/
  bri : Byte
  /-- `powerState` (R29) -/
  pwr : Power
  /-- `hueAngle`, whole degrees (R30) -/
  hue : BitVec 9
  /-- the consumed width (R32) -/
  cw : Word
  /-- the main-loop sequencer's position (R33) -/
  phase : BitVec 4
  /-- brightness light (R34) -/
  outBri : Byte
  /-- on/off light (R34) -/
  outPwr : Bool
  /-- red (R34) -/
  outR : Byte
  /-- green (R34) -/
  outG : Byte
  /-- blue (R34) -/
  outB : Byte
deriving DecidableEq, Repr

/-- Every register at its reset value (`10_state.md` R41 to R43), for an instance, its inputs and the actions to
come. -/
def State.powerOn (p : Params) (sched : List Event) (T : Word) (sig : PerChan Bool) : State :=
  { cfg := p
    sched := sched
    T := T
    sig := sig
    est := ⟨0, 0, 0⟩
    lw := ⟨0, 0, 0⟩
    upd := ⟨false, false, false⟩
    ll := false
    bri := p.resetBri
    pwr := p.resetPwr
    hue := p.resetHue
    cw := 0
    phase := 0
    outBri := 0
    outPwr := false
    outR := 0
    outG := 0
    outB := 0 }

/-- The standard instance right after reset, with nothing scheduled, the clock at 0 and the inputs LOW (log entries 2
and 3, DESIGN CHOICE: `70_reset_and_hazards.md` R206 leaves the inputs open). -/
def State.reset : State :=
  State.powerOn Params.standard [] 0 ⟨false, false, false⟩

end Sys2Proof.Machine
end

