-- ==== Sys2Proof/Machine/Ops.lean ====
section
/-! DEFINITION. The shared operations: one value per channel read and written, one update per register, the clock
reading, the sequencer ROM, the entry of the two contexts, the capture step that both handlers apply, and reset. -/

namespace Sys2Proof

/-- The value of channel c. -/
def PerChan.get {α : Type} (a : PerChan α) (c : Chan) : α :=
  match c with
  | 0 => a.c0
  | 1 => a.c1
  | 2 => a.c2

/-- Channel c takes the value x; the two others keep theirs. -/
def PerChan.set {α : Type} (a : PerChan α) (c : Chan) (x : α) : PerChan α :=
  match c with
  | 0 => { a with c0 := x }
  | 1 => { a with c1 := x }
  | 2 => { a with c2 := x }

namespace Machine

/-! One write per register, whole (`20_memory.md` R62). -/

def State.withSched (s : State) (x : List Event) : State := { s with sched := x }
def State.withT (s : State) (x : Word) : State := { s with T := x }
def State.withSig (s : State) (c : Chan) (x : Bool) : State := { s with sig := s.sig.set c x }
def State.withEst (s : State) (c : Chan) (x : Word) : State := { s with est := s.est.set c x }
def State.withLw (s : State) (c : Chan) (x : Word) : State := { s with lw := s.lw.set c x }
def State.withUpd (s : State) (c : Chan) (x : Bool) : State := { s with upd := s.upd.set c x }
def State.withLl (s : State) (x : Bool) : State := { s with ll := x }
def State.withBri (s : State) (x : Byte) : State := { s with bri := x }
def State.withPwr (s : State) (x : Power) : State := { s with pwr := x }
def State.withHue (s : State) (x : BitVec 9) : State := { s with hue := x }
def State.withCw (s : State) (x : Word) : State := { s with cw := x }
def State.withPhase (s : State) (x : BitVec 4) : State := { s with phase := x }
def State.withOutBri (s : State) (x : Byte) : State := { s with outBri := x }
def State.withOutPwr (s : State) (x : Bool) : State := { s with outPwr := x }
def State.withOutRgb (s : State) (x : Rgb) : State := { s with outR := x.r, outG := x.g, outB := x.b }

/-- The reading of a clock of granularity `tick`: the time rounded down to a multiple of it (`00_scope.md` R12,
`40_capture.md` R110; log entry 6). With `TICK` = 1 it is the time itself. -/
def clockReading (tick : Nat) (T : Word) : Word := T - BitVec.ofNat 32 (T.toNat % tick)

/-- The clock reading a handler samples, once (`40_capture.md` R101, R102). -/
def State.now (s : State) : Word := clockReading s.cfg.tick s.T

/-- The sequencer ROM (`30_encoding.md` R89). -/
def romTable : List Byte :=
  [0x40, 0x50, 0x60, 0x70, 0x44, 0x54, 0x64, 0x74, 0x48, 0x58, 0x68, 0x78, 0x80]

/-- `ROM[phase]`; the ROM has 13 entries (`30_encoding.md` R89). -/
def romWord (phase : BitVec 4) : Option Byte := romTable[phase.toNat]?

/-- A main-context operation: it is executed only as `ROM[phase]` (`30_encoding.md` R85), and then has the effect
given. -/
def mainOp (i : Instr) (effect : State → State) (s : State) : Host.Outcome State Fault Refusal :=
  match romWord s.phase with
  | none => .refused .phaseOutsideRom
  | some w => if w = encode i then .next (effect s) else .refused .notRomWord

/-- A handler operation: entry saves nothing and changes nothing, return restores nothing, and the operation runs to
completion (`60_exceptions.md` R188, R189), so its own writes are the only change. -/
def handlerOp (effect : State → State) (s : State) : Host.Outcome State Fault Refusal :=
  .next (effect s)

/-- The capture function (`40_capture.md` R100), at any timestamp width: HIGH latches the time, LOW publishes the
modular difference (R103). -/
def capture {n : Nat} (est lw : BitVec n) (upd : Bool) (t : BitVec n) (v : Bool) : Captured n :=
  if v then { est := t, lw := lw, upd := upd, result := none }
  else { est := est, lw := t - est, upd := true, result := some (t - est) }

/-- The capture function applied to channel c's registers, its level and the clock reading: the field first, then the
flag (`20_memory.md` R64). -/
def captureChannel (c : Chan) (s : State) : State :=
  let k := capture (s.est.get c) (s.lw.get c) (s.upd.get c) s.now (s.sig.get c)
  ((s.withEst c k.est).withLw c k.lw).withUpd c k.upd

/-- `phase <- phase + n`. -/
def advance (n : Nat) (s : State) : State := s.withPhase (s.phase + BitVec.ofNat 4 n)

/-- `rst`: every register takes its reset value; the inputs are untouched (`70_reset_and_hazards.md` R200,
`30_encoding.md` R87). -/
def resetRegisters (s : State) : State := State.powerOn s.cfg s.sched s.T s.sig

end Machine

end Sys2Proof
end

