-- ==== Sys2Proof/Machine/Capture.lean ====
section
/-! DEFINITION. PulseCapture: the handler operations `EDGE` and `CHG` (`40_capture.md`). -/

namespace Sys2Proof.Machine

/-- `EDGE c` (`40_capture.md` R101): the dual-edge handler acts on the level it reads and remembers no earlier one. On
the change-only channel it is reserved (`30_encoding.md` R84). -/
def execEdge (c : Chan) (s : State) : Host.Outcome State Fault Refusal :=
  match s.cfg.mode c with
  | .change => .refused .edgeOnChangeOnly
  | .dual => handlerOp (captureChannel c) s

/-- What `CHG` does to one `CHANGE` channel (`40_capture.md` R102): nothing when the level is the remembered one, else
the capture step, and the level is remembered. -/
def captureIfChanged (c : Chan) (s : State) : State :=
  if s.sig.get c = s.ll then s
  else captureChannel c (s.withLl (s.sig.get c))

/-- `CHG` (`40_capture.md` R102): the loop over the `CHANGE` channels has exactly one, `CHG_CH` (`10_state.md` R26). -/
def execChg (s : State) : Host.Outcome State Fault Refusal :=
  handlerOp (captureIfChanged s.cfg.chgCh) s

end Sys2Proof.Machine
end

