-- ==== Sys2Proof/Machine/Operands.lean ====
section
/-! DEFINITION. What an operation or a trace line can name: the channel's registers and inputs, the fixed constants
(`00_scope.md` R11), and the flat register space (`10_state.md` R35). -/

namespace Sys2Proof.Machine

/-! The named constants of `00_scope.md` R11. -/

def W_MIN : Nat := 1000
def W_MAX : Nat := 2000
def P_ON : Nat := 1500
def P_NOSIG : Nat := 500
def BRI_MAX : Nat := 255
def HUE_MAX : Nat := 360
def SECTOR : Nat := 60
def OUT_MAX : Nat := 255

/-- The registers (`10_state.md` R35). -/
inductive Reg where
  | est (c : Chan)
  | lw (c : Chan)
  | upd (c : Chan)
  | ll
  | bri
  | pwr
  | hue
  | cw
  | phase
  | outBri
  | outPwr
  | outR
  | outG
  | outB
deriving DecidableEq, Repr

/-- The number of a register in the flat register space (`10_state.md` R35). -/
def Reg.number : Reg → Nat
  | .est c => c.val
  | .lw c => 4 + c.val
  | .upd c => 8 + c.val
  | .ll => 12
  | .bri => 16
  | .pwr => 17
  | .hue => 18
  | .cw => 19
  | .phase => 20
  | .outBri => 24
  | .outPwr => 25
  | .outR => 26
  | .outG => 27
  | .outB => 28

/-- The register a number names; the others name none (`10_state.md` R35, `93_implementation_defined.md` U23). -/
def Reg.ofNumber : Nat → Option Reg
  | 0 => some (.est 0)
  | 1 => some (.est 1)
  | 2 => some (.est 2)
  | 4 => some (.lw 0)
  | 5 => some (.lw 1)
  | 6 => some (.lw 2)
  | 8 => some (.upd 0)
  | 9 => some (.upd 1)
  | 10 => some (.upd 2)
  | 12 => some .ll
  | 16 => some .bri
  | 17 => some .pwr
  | 18 => some .hue
  | 19 => some .cw
  | 20 => some .phase
  | 24 => some .outBri
  | 25 => some .outPwr
  | 26 => some .outR
  | 27 => some .outG
  | 28 => some .outB
  | _ => none

/-- The width of a register in bits (`10_state.md` R20, R35). -/
def Reg.width : Reg → Nat
  | .est _ => 32
  | .lw _ => 32
  | .upd _ => 1
  | .ll => 1
  | .bri => 8
  | .pwr => 2
  | .hue => 9
  | .cw => 32
  | .phase => 4
  | .outBri => 8
  | .outPwr => 1
  | .outR => 8
  | .outG => 8
  | .outB => 8

/-- The 2-bit encoding of `pwr` (`10_state.md` R29). -/
def powerCode : Power → Nat
  | .noSignal => 0
  | .off => 1
  | .on => 2

/-- The number a register holds: the whole register, unsigned (`20_memory.md` R62, `00_scope.md` section 6). -/
def State.reg (s : State) : Reg → Nat
  | .est c => (s.est.get c).toNat
  | .lw c => (s.lw.get c).toNat
  | .upd c => (s.upd.get c).toNat
  | .ll => s.ll.toNat
  | .bri => s.bri.toNat
  | .pwr => powerCode s.pwr
  | .hue => s.hue.toNat
  | .cw => s.cw.toNat
  | .phase => s.phase.toNat
  | .outBri => s.outBri.toNat
  | .outPwr => s.outPwr.toNat
  | .outR => s.outR.toNat
  | .outG => s.outG.toNat
  | .outB => s.outB.toNat

/-- The content of a register number; a number that names no register is refused (`none`,
`93_implementation_defined.md` U23). -/
def State.regByNumber (s : State) (n : Nat) : Option Nat := (Reg.ofNumber n).map s.reg

/-- What a trace's `.expect` can name: a register or an input (`30_encoding.md` R87). -/
inductive Observed where
  | reg (r : Reg)
  | clock
  | level (c : Chan)
deriving DecidableEq, Repr

/-- `.expect r = v`: an assertion on a state, not a step (`30_encoding.md` R87). -/
def State.expect (s : State) (o : Observed) (v : Nat) : Bool :=
  match o with
  | .reg r => s.reg r == v
  | .clock => s.T.toNat == v
  | .level c => (s.sig.get c).toNat == v

end Sys2Proof.Machine
end

