-- ==== Sys2Proof/Machine/Color.lean ====
section
/-! DEFINITION. ColorModel: the HSV-to-RGB converter and `RGB` (`43_color.md`). -/

namespace Sys2Proof.Machine

/-- The rising level `F` at m degrees into a sector: `trunc(f * 255)` (`43_color.md` R164). -/
def levelF (m : Nat) : Byte := BitVec.ofNat 8 (m * OUT_MAX / SECTOR)

/-- The falling level `Q`: `trunc(q * 255)`, q = 1 - f (`43_color.md` R164). -/
def levelQ (m : Nat) : Byte := BitVec.ofNat 8 ((SECTOR - m) * OUT_MAX / SECTOR)

/-- `OUT_MAX` as a level (`43_color.md` R164: a level of 1 scales to exactly 255). -/
def levelFull : Byte := BitVec.ofNat 8 OUT_MAX

/-- The sector table (`43_color.md` R162), with the levels scaled; `h mod 360` has sectors 0 to 5 only. -/
def sectorLevels (sector m : Nat) : Rgb :=
  match sector with
  | 0 => ⟨levelFull, levelF m, 0⟩
  | 1 => ⟨levelQ m, levelFull, 0⟩
  | 2 => ⟨0, levelFull, levelF m⟩
  | 3 => ⟨0, levelQ m, levelFull⟩
  | 4 => ⟨levelF m, 0, levelFull⟩
  | _ => ⟨levelFull, 0, levelQ m⟩

/-- `hueToRGB` in exact integer arithmetic, wrapping modulo 360 (`43_color.md` R163, R164), on every 9-bit value. -/
def hueToRGB (hue : BitVec 9) : Rgb :=
  let h := hue.toNat % HUE_MAX
  sectorLevels (h / SECTOR) (h % SECTOR)

/-- `RGB` (`43_color.md` R166): all three outputs, and the iteration is over. -/
def execRgb (s : State) : Host.Outcome State Fault Refusal :=
  mainOp .rgb (fun s => (s.withOutRgb (hueToRGB s.hue)).withPhase 0) s

end Sys2Proof.Machine
end

