-- ==== Sys2Proof/Machine/Flags.lean ====
section
/-! DEFINITION. The block's only flags are the three `upd[c]` bits (`10_state.md`, section 3). `POLL` tests one, `CLR`
clears one, and the capture step sets one (`captureChannel`). There are no condition codes and no arithmetic flags. -/

namespace Sys2Proof.Machine

/-- `upd[c] = 1`? A test has no side effect (`20_memory.md` R65). -/
def flagSet (c : Chan) (s : State) : Bool := s.upd.get c

/-- `upd[c] <- 0`: a plain write, not a test-and-clear (`20_memory.md` R66). -/
def clearFlag (c : Chan) (s : State) : State := s.withUpd c false

end Sys2Proof.Machine
end

