-- ==== Sys2Proof/Machine/Handoff.lean ====
section
/-! DEFINITION. The main-loop handoff: `POLL`, `READ`, `CLR` (`41_handoff.md`). -/

namespace Sys2Proof.Machine

/-- `POLL c` (`41_handoff.md` R121). -/
def execPoll (c : Chan) (s : State) : Host.Outcome State Fault Refusal :=
  mainOp (.poll c) (fun s => if flagSet c s then advance 1 s else advance 4 s) s

/-- `READ c` (`41_handoff.md` R122). -/
def execRead (c : Chan) (s : State) : Host.Outcome State Fault Refusal :=
  mainOp (.read c) (fun s => advance 1 (s.withCw (s.lw.get c))) s

/-- `CLR c` (`41_handoff.md` R123). -/
def execClr (c : Chan) (s : State) : Host.Outcome State Fault Refusal :=
  mainOp (.clr c) (fun s => advance 1 (clearFlag c s)) s

end Sys2Proof.Machine
end

