-- ==== Sys2Proof/Machine/Interpret.lean ====
section
/-! DEFINITION. ChannelInterpreter: `IBRT`, `IPWR`, `IHUE` and the three policies (`42_interpret.md`). -/

namespace Sys2Proof.Machine

/-- The linear map (`42_interpret.md` R140): multiply, then divide, discarding the remainder. -/
def linmap (w inMin inMax outMin outMax : Nat) : Nat :=
  (w - inMin) * (outMax - outMin) / (inMax - inMin) + outMin

/-- The range check, both bounds inclusive (`42_interpret.md` R141, R143). -/
def inRange (w : Nat) : Bool := decide (W_MIN ≤ w) && decide (w ≤ W_MAX)

/-- The brightness policy: 0 out of range (`42_interpret.md` R141). -/
def brightness (w : Nat) : Byte :=
  if inRange w then BitVec.ofNat 8 (linmap w W_MIN W_MAX 0 BRI_MAX) else 0

/-- The power policy: `w >= 1500` first, then `w > 500`; no upper bound (`42_interpret.md` R142). -/
def powerOf (w : Nat) : Power :=
  if P_ON ≤ w then .on else if P_NOSIG < w then .off else .noSignal

/-- The level a power class hands to the on/off output; NO_SIGNAL forces no change (`42_interpret.md` R142). -/
def powerLevel (c : Power) (held : Bool) : Bool :=
  match c with
  | .on => true
  | .off => false
  | .noSignal => held

/-- The hue policy: nothing out of range (`42_interpret.md` R143). -/
def hueOf (w : Nat) : Option (BitVec 9) :=
  if inRange w then some (BitVec.ofNat 9 (linmap w W_MIN W_MAX 0 HUE_MAX)) else none

/-- `IBRT` (`42_interpret.md` R141): interpretation and actuation are one step. -/
def execIbrt (s : State) : Host.Outcome State Fault Refusal :=
  mainOp .ibrt (fun s =>
    let v := brightness s.cw.toNat
    advance 1 ((s.withBri v).withOutBri v)) s

/-- `IPWR` (`42_interpret.md` R142). -/
def execIpwr (s : State) : Host.Outcome State Fault Refusal :=
  mainOp .ipwr (fun s =>
    let v := powerOf s.cw.toNat
    advance 1 ((s.withPwr v).withOutPwr (powerLevel v s.outPwr))) s

/-- `IHUE` (`42_interpret.md` R143): no output is written. -/
def execIhue (s : State) : Host.Outcome State Fault Refusal :=
  mainOp .ihue (fun s => advance 1 (s.withHue ((hueOf s.cw.toNat).getD s.hue))) s

end Sys2Proof.Machine
end

