-- ==== Sys2Proof/Machine/Dispatch.lean ====
section
/-! DEFINITION. The meaning of every operation: one arm per constructor of Instr. -/

namespace Sys2Proof.Machine

def exec (i : Instr) (s : State) : Host.Outcome State Fault Refusal :=
  match i with
  | .edge c => Sys2Proof.Machine.execEdge c s
  | .chg => Sys2Proof.Machine.execChg s
  | .poll c => Sys2Proof.Machine.execPoll c s
  | .read c => Sys2Proof.Machine.execRead c s
  | .clr c => Sys2Proof.Machine.execClr c s
  | .ibrt => Sys2Proof.Machine.execIbrt s
  | .ipwr => Sys2Proof.Machine.execIpwr s
  | .ihue => Sys2Proof.Machine.execIhue s
  | .rgb => Sys2Proof.Machine.execRgb s

end Sys2Proof.Machine
end

