-- ==== Sys2Proof/Machine/Fetch.lean ====
section
/-! DEFINITION. How a word comes to be executed, and what each action of the schedule does: a notification or a trace
line (`30_encoding.md` R86), a turn of the main context (`41_handoff.md` R120), the directives (`30_encoding.md` R87). -/

namespace Sys2Proof.Machine

/-- Decode a word and execute it; a reserved word is refused by name (`30_encoding.md` R84). -/
def runWord (w : Byte) (s : State) : Host.Outcome State Fault Refusal :=
  match decode s.cfg w with
  | .ok i => exec i s
  | .error why => .refused (.reservedWord why)

/-- One main-context step: the word `ROM[phase]` (`41_handoff.md` R120). -/
def mainTurn (s : State) : Host.Outcome State Fault Refusal :=
  match romWord s.phase with
  | none => .refused .phaseOutsideRom
  | some w => runWord w s

/-- One action (`30_encoding.md` R86, R87). -/
def act (e : Event) (s : State) : Host.Outcome State Fault Refusal :=
  match e with
  | .rst => .next (resetRegisters s)
  | .time t => .next (s.withT (BitVec.ofNat 32 t))
  | .tick d => .next (s.withT (s.T + BitVec.ofNat 32 d))
  | .sig c v => .next (s.withSig c v)
  | .line w => runWord w s
  | .main => mainTurn s

/-- Where the ROM holds a word, if it does (`30_encoding.md` R89: every word stands there at most once). -/
def romIndex (w : Byte) : Option (BitVec 4) := (romTable.idxOf? w).map (BitVec.ofNat 4)

/-- The word becomes the next line of the schedule; for a word of the ROM the sequencer stands at it. -/
def placeWord (w : Byte) (s : State) : State :=
  (s.withSched (.line w :: s.sched)).withPhase ((romIndex w).getD s.phase)

end Sys2Proof.Machine
end

