-- ==== Sys2Proof/Machine/Step.lean ====
section
/-! DEFINITION. One step: the oldest scheduled action, or, with none scheduled, one step of the main context. -/

namespace Sys2Proof.Machine

/-- One atomic action of one agent (`00_scope.md` R8, R9; the total order of `20_memory.md` R67). -/
def step (s : State) : Host.Outcome State Fault Refusal :=
  match s.sched with
  | [] => mainTurn s
  | e :: rest => act e (s.withSched rest)

/-- The state whose very next step fetches and runs the table's word (log entry 2). -/
def State.withFetchWord (s : State) (nbits w : Nat) : State := placeWord (tableByte nbits w) s

end Sys2Proof.Machine
end

