-- ==== Sys2Proof/Machine/Trace.lean ====
section
/-! DEFINITION. Traces: a list of actions run in order, and the pseudo-operations, each short for a fixed list of lines
(`30_encoding.md` R86 to R88). -/

namespace Sys2Proof.Machine

/-- Run a list of actions in order, stopping at the first that is refused. -/
def runTrace (es : List Event) (s : State) : Host.Outcome State Fault Refusal :=
  match es with
  | [] => .next s
  | e :: rest =>
    match act e s with
    | .next s' => runTrace rest s'
    | .fault r => .fault r
    | .refused r => .refused r

/-- The operation line of an operation. -/
def opLine (i : Instr) : Event := .line (encode i)

/-- The handler of channel c: `EDGE c` if `mode[c] = DUAL`, `CHG` if `mode[c] = CHANGE` (`30_encoding.md` R88). -/
def handlerOf (p : Params) (c : Chan) : Instr :=
  match p.mode c with
  | .dual => .edge c
  | .change => .chg

/-- The notification of channel c's source (`10_state.md` R39). -/
def notify (p : Params) (c : Chan) : Event := opLine (handlerOf p c)

/-- `RISE c` (`30_encoding.md` R88). -/
def rise (p : Params) (c : Chan) : List Event := [.sig c true, notify p c]

/-- `FALL c`. -/
def fall (p : Params) (c : Chan) : List Event := [.sig c false, notify p c]

/-- `PULSE c, w`: one clean HIGH pulse of w microseconds, each edge handled at once. -/
def pulse (p : Params) (c : Chan) (w : Nat) : List Event := rise p c ++ [.tick w] ++ fall p c

/-- `CONSUME c`, where the `POLL c` sees the flag as given. -/
def consume (c : Chan) (seen : Bool) : List Event :=
  opLine (.poll c) :: (if seen then [opLine (.read c), opLine (.clr c), opLine (policyOf c)] else [])

/-- `LOOP`: one whole main-loop iteration from `phase = 0` with no handler in between. -/
def loop (s : State) : List Event :=
  consume 0 (s.upd.get 0) ++ consume 1 (s.upd.get 1) ++ consume 2 (s.upd.get 2) ++ [opLine .rgb]

end Sys2Proof.Machine
end

