-- ==== Sys2Proof/Safety.lean ====
section
/-! DEFINITION. The terms claims use: the legal states, who may write and read which register, the exact arithmetic the
integer forms stand for, a stream of capture calls, and what one undisturbed main-loop iteration computes. -/

namespace Sys2Proof.Machine

/-- The legal states: the instance is one, `phase` is in the ROM (`10_state.md` R33), `hue` is in 0 to 360 (R30), and
the sequencer stands at `READ c` or `CLR c` only with `upd[c] = 1` (`41_handoff.md` R126). -/
structure Legal (s : State) : Prop where
  instance_ok : s.cfg.wf = true
  phase_le : s.phase.toNat ≤ 12
  hue_le : s.hue.toNat ≤ 360
  flag_held : ∀ c : Chan, s.phase.toNat = 4 * c.val + 1 ∨ s.phase.toNat = 4 * c.val + 2 → s.upd.get c = true

/-- The outputs show DerivedState: the brightness output is `bri` (`42_interpret.md` R141), the on/off output agrees
with ON and OFF (R142), and the colours are those of `hue` except just before `RGB` (`43_color.md` R166). -/
structure Shown (s : State) : Prop where
  brightness_shown : s.outBri = s.bri
  power_on_shown : s.pwr = .on → s.outPwr = true
  power_off_shown : s.pwr = .off → s.outPwr = false
  colour_shown : s.phase.toNat ≠ 12 → (⟨s.outR, s.outG, s.outB⟩ : Rgb) = hueToRGB s.hue

/-- The registers an operation may write (`10_state.md` R35, columns "H writes" and "M writes"). -/
def mayWrite (p : Params) (i : Instr) (r : Reg) : Bool :=
  match i, r with
  | .edge c, .est d => decide (d = c)
  | .edge c, .lw d => decide (d = c)
  | .edge c, .upd d => decide (d = c)
  | .chg, .est d => decide (d = p.chgCh)
  | .chg, .lw d => decide (d = p.chgCh)
  | .chg, .upd d => decide (d = p.chgCh)
  | .chg, .ll => true
  | .poll _, .phase => true
  | .read _, .cw => true
  | .read _, .phase => true
  | .clr c, .upd d => decide (d = c)
  | .clr _, .phase => true
  | .ibrt, .bri => true
  | .ibrt, .outBri => true
  | .ibrt, .phase => true
  | .ipwr, .pwr => true
  | .ipwr, .outPwr => true
  | .ipwr, .phase => true
  | .ihue, .hue => true
  | .ihue, .phase => true
  | .rgb, .outR => true
  | .rgb, .outG => true
  | .rgb, .outB => true
  | .rgb, .phase => true
  | _, _ => false

/-- The registers an operation may read (`10_state.md` R35, columns "H reads" and "M reads"). -/
def mayRead (p : Params) (i : Instr) (r : Reg) : Bool :=
  match i, r with
  | .edge c, .est d => decide (d = c)
  | .chg, .est d => decide (d = p.chgCh)
  | .chg, .ll => true
  | .poll c, .upd d => decide (d = c)
  | .poll _, .phase => true
  | .read c, .lw d => decide (d = c)
  | .read _, .phase => true
  | .clr _, .phase => true
  | .ibrt, .cw => true
  | .ibrt, .phase => true
  | .ipwr, .cw => true
  | .ipwr, .phase => true
  | .ihue, .cw => true
  | .ihue, .phase => true
  | .rgb, .hue => true
  | .rgb, .phase => true
  | _, _ => false

/-- The channel whose level and clock reading an operation samples (`10_state.md` R37, R38), if any. -/
def sampledChannel (p : Params) : Instr → Option Chan
  | .edge c => some c
  | .chg => some p.chgCh
  | .poll _ => none
  | .read _ => none
  | .clr _ => none
  | .ibrt => none
  | .ipwr => none
  | .ihue => none
  | .rgb => none

/-- The level of the red, green and blue light in [0,1] by the steps the source prints (`43_color.md` R161) and its
sector table (R162), in exact arithmetic. -/
def idealLevels (hue : ℚ) : ℚ × ℚ × ℚ :=
  let sector := ⌊hue / 60⌋ % 6
  let f := hue / 60 - sector
  let q := 1 - f
  if sector = 0 then (1, f, 0)
  else if sector = 1 then (q, 1, 0)
  else if sector = 2 then (0, 1, f)
  else if sector = 3 then (0, q, 1)
  else if sector = 4 then (f, 0, 1)
  else (1, 0, q)

/-- What a channel emits over a stream of capture calls, each with a time and a level (`40_capture.md` R100). -/
def emissions {n : Nat} (est lw : BitVec n) (upd : Bool) : List (BitVec n × Bool) → List (BitVec n)
  | [] => []
  | (t, v) :: rest =>
    let k := capture est lw upd t v
    k.result.toList ++ emissions k.est k.lw k.upd rest

/-- The calls of a train of clean pulses, each given by the times of its rising and its falling edge
(`40_capture.md` R105). -/
def edgesOf {n : Nat} (pulses : List (BitVec n × BitVec n)) : List (BitVec n × Bool) :=
  pulses.flatMap fun p => [(p.1, true), (p.2, false)]

/-- The next falling edge of channel c, handled now, publishes: the level is LOW, and on the change-only channel the
remembered level is HIGH (`40_capture.md` R101, R102). -/
def publishes (c : Chan) (s : State) : Prop :=
  s.sig.get c = false ∧ (s.cfg.mode c = .change → s.ll = true)

/-- What one main-loop iteration from `phase = 0` computes when no handler runs in it (`30_encoding.md` R89,
`41_handoff.md` R124). -/
def iteration (s : State) : State :=
  let hue := if s.upd.get 2 then (hueOf (s.lw.get 2).toNat).getD s.hue else s.hue
  { s with
    cw := if s.upd.get 2 then s.lw.get 2 else if s.upd.get 1 then s.lw.get 1
          else if s.upd.get 0 then s.lw.get 0 else s.cw
    upd := ⟨false, false, false⟩
    bri := if s.upd.get 0 then brightness (s.lw.get 0).toNat else s.bri
    outBri := if s.upd.get 0 then brightness (s.lw.get 0).toNat else s.outBri
    pwr := if s.upd.get 1 then powerOf (s.lw.get 1).toNat else s.pwr
    outPwr := if s.upd.get 1 then powerLevel (powerOf (s.lw.get 1).toNat) s.outPwr else s.outPwr
    hue := hue
    outR := (hueToRGB hue).r
    outG := (hueToRGB hue).g
    outB := (hueToRGB hue).b
    phase := 0 }

/-- The length of that iteration: one `POLL` per channel, three more operations per flag, and one `RGB`
(`30_encoding.md` R91). -/
def iterationLength (s : State) : Nat :=
  4 + 3 * ((s.upd.get 0).toNat + (s.upd.get 1).toNat + (s.upd.get 2).toNat)

/-- The state of an outcome, if it is a next state (for tests, where states can be compared and outcomes cannot). -/
def nextState (o : Host.Outcome State Fault Refusal) : Option State :=
  match o with
  | .next s => some s
  | .fault _ => none
  | .refused _ => none

/-- The refusal of an outcome, if it is one. -/
def refusalOf (o : Host.Outcome State Fault Refusal) : Option Refusal :=
  match o with
  | .next _ => none
  | .fault _ => none
  | .refused r => some r

end Sys2Proof.Machine
end

