-- ==== Sys2Proof/Certificates/Slice0/Obligations.lean ====
section
/-! DEFINITION. The statements for the provers. Each docstring names what of the spec it formalises; "derived" ones
that rest on a decision of the spec (`92_eei_decisions.md`) or of the model (the assumption log) say so. -/

open Sys2Proof Sys2Proof.Machine

/-! ## Encoding -/

/-- Decoding and encoding agree: a word decodes to an operation exactly when the operation belongs to the instance and
the word is its encoding. No bit of an encoding is dropped and no operation has two words. The encoding is the spec's
decision D11, the words refused its decisions D12 and D28. -/
def Obligations.DecodeIffEncode : Prop :=
  ∀ (p : Params) (b : Byte) (i : Instr), decode p b = .ok i ↔ i.wf p = true ∧ encode i = b

/-- The words of `30_encoding.md` section 3 and of `95_test_vectors.md` section 2.8. The words are the spec's decision
D11 and the reserved ones its decisions D12 and D28; `decodeTableWord` decodes in the default instance, `CHG_CH` = 2
(log entry 5, DESIGN CHOICE). -/
def Obligations.ListedWordsDecode : Prop :=
  decodeTableWord 8 0x10 = some (.edge 0) ∧ decodeTableWord 8 0x14 = some (.edge 1) ∧
  decodeTableWord 8 0x20 = some .chg ∧
  decodeTableWord 8 0x40 = some (.poll 0) ∧ decodeTableWord 8 0x44 = some (.poll 1) ∧
  decodeTableWord 8 0x54 = some (.read 1) ∧ decodeTableWord 8 0x58 = some (.read 2) ∧
  decodeTableWord 8 0x60 = some (.clr 0) ∧ decodeTableWord 8 0x68 = some (.clr 2) ∧
  decodeTableWord 8 0x70 = some .ibrt ∧ decodeTableWord 8 0x74 = some .ipwr ∧ decodeTableWord 8 0x78 = some .ihue ∧
  decodeTableWord 8 0x80 = some .rgb ∧
  decodeTableWord 8 0x18 = none ∧ decodeTableWord 8 0x1C = none ∧ decodeTableWord 8 0x11 = none ∧
  decodeTableWord 8 0x7C = none ∧ decodeTableWord 8 0x84 = none ∧ decodeTableWord 8 0x90 = none

/-- The reserved words, in full, as `30_encoding.md` section 4 lists them (the spec's decisions D11, D12, D28), for
every `CHG_CH`: exactly these are refused. -/
def Obligations.ReservedWordsExactly : Prop :=
  ∀ (p : Params) (b : Byte),
    (∃ why, decode p b = .error why) ↔
      (b.toNat % 4 ≠ 0 ∨ b.toNat / 4 % 4 = 3 ∨
       b.toNat / 16 ∈ ([0, 3, 9, 10, 11, 12, 13, 14, 15] : List Nat) ∨
       ((b.toNat / 16 = 2 ∨ b.toNat / 16 = 8) ∧ b.toNat / 4 % 4 ≠ 0) ∨
       (b.toNat / 16 = 1 ∧ b.toNat / 4 % 4 = p.chgCh.val))

/-- A scheduled line whose word is reserved is refused, with the decoder's reason (`30_encoding.md` section 4; the
spec's decision D12; the schedule is log entry 1, DESIGN CHOICE). -/
def Obligations.ReservedLineRefused : Prop :=
  ∀ (s : State) (w : Byte) (rest : List Event) (why : Reject),
    s.sched = .line w :: rest → decode s.cfg w = .error why → step s = .refused (.reservedWord why)

/-- A main operation that is not `ROM[phase]` is refused, by name, at a phase of the ROM and outside it, and no
handler word is ever in the ROM (`30_encoding.md` section 4, the context rule). The ROM is the spec's decision D9 (log
entry 8, DESIGN CHOICE), the refusal its decision D12; the names of the two refusals are log entries 9 (DEDUCED) and
10 (DESIGN CHOICE). -/
def Obligations.MainWordOffRomRefused : Prop :=
  (∀ (i : Instr) (s : State), i.context = .main → romWord s.phase ≠ some (encode i) → s.phase.toNat ≤ 12 →
    exec i s = .refused .notRomWord) ∧
  (∀ (i : Instr) (s : State), i.context = .main → 12 < s.phase.toNat → exec i s = .refused .phaseOutsideRom) ∧
  (∀ (i : Instr) (phase : BitVec 4), i.context = .handler → romWord phase ≠ some (encode i))

/-! ## Reset -/

/-- `10_state.md` R41, after power-on and after every later assertion of `rst`, in every instance. -/
def Obligations.ResetPulseChannels : Prop :=
  (∀ c : Chan, State.reset.est.get c = 0 ∧ State.reset.lw.get c = 0 ∧ State.reset.upd.get c = false) ∧
  State.reset.ll = false ∧
  (∀ s : State, ∃ t, act .rst s = .next t ∧ t.ll = false ∧
    ∀ c : Chan, t.est.get c = 0 ∧ t.lw.get c = 0 ∧ t.upd.get c = false)

/-- The other reset values are the spec's decisions D19 and D20 (log entry 7, DESIGN CHOICE): DerivedState takes the
instance's parameters, whose standard values, those of `State.reset`, are 0, NO_SIGNAL, 0 (log entry 5, DESIGN
CHOICE), and the rest is 0. That `rst` at any time is a reset is the spec's decision D26. -/
def Obligations.ResetOfTheRest : Prop :=
  (State.reset.bri = 0 ∧ State.reset.pwr = .noSignal ∧ State.reset.hue = 0) ∧
  (∀ s : State, ∃ t, act .rst s = .next t ∧
    t.bri = s.cfg.resetBri ∧ t.pwr = s.cfg.resetPwr ∧ t.hue = s.cfg.resetHue ∧ t.cw = 0 ∧ t.phase = 0 ∧
    t.outBri = 0 ∧ t.outPwr = false ∧ t.outR = 0 ∧ t.outG = 0 ∧ t.outB = 0)

/-- `rst` applied at any time gives exactly the power-on state of the instance, and leaves the inputs and what is still
scheduled alone (the spec's decision D26; the schedule is log entry 1, DESIGN CHOICE). -/
def Obligations.RstIsPowerOn : Prop :=
  ∀ (s : State) (rest : List Event), s.sched = .rst :: rest →
    step s = .next (State.powerOn s.cfg rest s.T s.sig)

/-! ## PulseCapture -/

/-- `EDGE c` (`40_capture.md` section 2): its word, the reserved operand, and both arms, with everything else unchanged.
The word is the spec's decision D11, the refusal on the change-only channel its decisions D12 and D28, the one sampling
instant its decision D7 (log entry 14, DESIGN CHOICE). -/
def Obligations.EdgeOperation : Prop :=
  ∀ (s : State) (c : Chan),
    (encode (.edge c) = BitVec.ofNat 8 (0x10 + 4 * c.val) ∧ (Instr.edge c).context = .handler) ∧
    (s.cfg.mode c = .change → exec (.edge c) s = .refused .edgeOnChangeOnly) ∧
    (s.cfg.mode c = .dual → s.sig.get c = true → exec (.edge c) s = .next { s with est := s.est.set c s.now }) ∧
    (s.cfg.mode c = .dual → s.sig.get c = false →
      exec (.edge c) s =
        .next { s with lw := s.lw.set c (s.now - s.est.get c), upd := s.upd.set c true })

/-- `CHG` (`40_capture.md` section 3): its word and its three arms on the change-only channel, with everything else
unchanged. The word is the spec's decision D11; that its loop has one channel is D29 (log entry 13, DEDUCED). -/
def Obligations.ChgOperation : Prop :=
  ∀ (s : State) (c : Chan), s.cfg.mode c = .change →
    (encode .chg = 0x20 ∧ Instr.chg.context = .handler) ∧
    (s.sig.get c = s.ll → exec .chg s = .next s) ∧
    (s.sig.get c = true → s.ll = false → exec .chg s = .next { s with est := s.est.set c s.now, ll := true }) ∧
    (s.sig.get c = false → s.ll = true →
      exec .chg s =
        .next { s with lw := s.lw.set c (s.now - s.est.get c), ll := false, upd := s.upd.set c true })

/-- The width is the unsigned modular difference, at every timestamp width: a pulse of w microseconds that begins at
any time, the clock wrapping or not, is measured as w modulo `2^n` (`40_capture.md` section 4). That `capture` is a
named function is the spec's decision D13; what a wrapping clock reads is D33. -/
def Obligations.WidthIsModularDifference : Prop :=
  ∀ (n : Nat) (est lw t : BitVec n) (upd : Bool),
    ((capture est lw upd t false).lw.toNat : Int) = ((t.toNat : Int) - est.toNat) % 2 ^ n ∧
    (∀ w : Nat, (capture est lw upd (est + BitVec.ofNat n w) false).lw.toNat = w % 2 ^ n)

/-- A falling edge overwrites an unconsumed width, and of two complete pulses before the main loop looks only the
second is read into `cw` (`40_capture.md` section 5). Any channel of either mode, any gap and any widths; the clock
has granularity `TICK` (how a coarse one reads is log entry 6, DESIGN CHOICE). That the two turns of the main context
from phase 4c are `POLL c` and `READ c` is the spec's decision D9 (log entry 8, DESIGN CHOICE), that `READ c` fills
`cw` its decision D10, that each edge is handled at once its decision D8; the actions of a trace are log entry 1
(DESIGN CHOICE). -/
def Obligations.MostRecentWidthWins : Prop :=
  ∀ (s : State) (c : Chan) (w1 gap w2 : Nat),
    s.phase = BitVec.ofNat 4 (4 * c.val) → (s.cfg.mode c = .change → s.ll = false) →
    ∃ t t' : State,
      runTrace (pulse s.cfg c w1 ++ [.tick gap] ++ pulse s.cfg c w2) s = .next t ∧
      t.upd.get c = true ∧
      t.lw.get c = t.now - clockReading s.cfg.tick (s.T + BitVec.ofNat 32 (w1 + gap)) ∧
      runTrace [.main, .main] t = .next t' ∧
      t'.cw = t.lw.get c

/-- `40_capture.md` R106: a second rising edge with no falling edge between. In `DUAL` mode the start is re-latched, so
the published width runs from the second edge and is shorter than the true HIGH time; in `CHANGE` mode the second edge
is ignored and it runs from the first. -/
def Obligations.SecondRisingEdge : Prop :=
  ∀ (s : State) (c : Chan) (a b : Nat), (s.cfg.mode c = .change → s.ll = false) →
    ∃ t, runTrace (rise s.cfg c ++ [.tick a, notify s.cfg c, .tick b] ++ fall s.cfg c) s = .next t ∧
      t.upd.get c = true ∧
      (s.cfg.mode c = .dual → t.lw.get c = t.now - clockReading s.cfg.tick (s.T + BitVec.ofNat 32 a)) ∧
      (s.cfg.mode c = .dual → s.cfg.tick = 1 → 0 < a → a + b < 2 ^ 32 → (t.lw.get c).toNat < a + b) ∧
      (s.cfg.mode c = .change → t.lw.get c = t.now - s.now)

/-- Two LOW readings in a row on a `DUAL` channel: the second publishes again, from the old start time; on the
change-only channel the second is ignored (`40_capture.md` section 5). That a notification may come with no change of
level is the spec's decision D8; the actions of a trace are log entry 1 (DESIGN CHOICE). -/
def Obligations.SecondLowReading : Prop :=
  ∀ (s : State) (c : Chan) (d : Nat), publishes c s →
    ∃ t t', runTrace [notify s.cfg c] s = .next t ∧ t.lw.get c = s.now - s.est.get c ∧
      runTrace [.tick d, notify s.cfg c] t = .next t' ∧ t'.upd.get c = true ∧
      (s.cfg.mode c = .dual → t'.lw.get c = t'.now - s.est.get c) ∧
      (s.cfg.mode c = .change → t'.lw.get c = t.lw.get c)

/-- The round trip of a clean pulse: the flag is set and the width is the pulse's within one tick either way, and
exactly the pulse's when `TICK` = 1 (`40_capture.md` section 5). That each edge is handled at once is the spec's
decision D8, the granularity its D4 (how a coarser clock reads is log entry 6), the width 32 its D3 (log entry 4); the
actions of a trace are log entry 1 (all three entries DESIGN CHOICE). -/
def Obligations.PulseRoundTrip : Prop :=
  ∀ (s : State) (c : Chan) (w : Nat), s.cfg.wf = true → (s.cfg.mode c = .change → s.ll = false) →
    ∃ t, runTrace (pulse s.cfg c w) s = .next t ∧ t.upd.get c = true ∧
      (∃ d : Int, |d| < s.cfg.tick ∧ ((t.lw.get c).toNat : Int) ≡ w + d [ZMOD 2 ^ 32]) ∧
      (s.cfg.tick = 1 → t.lw.get c = BitVec.ofNat 32 w)

/-- Exactly once per pulse and never for a LOW interval: over any train of clean pulses, at every timestamp width and
from any registers, the channel emits one width for each pulse, in order, its fall less its rise (`40_capture.md`
section 5). That `capture` is a named function is the spec's decision D13, that each edge is handled at once its
decision D8. -/
def Obligations.ExactlyOncePerPulse : Prop :=
  ∀ (n : Nat) (pulses : List (BitVec n × BitVec n)) (est lw : BitVec n) (upd : Bool),
    emissions est lw upd (edgesOf pulses) = pulses.map fun p => p.2 - p.1

/-- The first notification after reset reads LOW: a `DUAL` channel publishes the clock reading itself, the change-only
channel ignores it (`40_capture.md` section 5). That the inputs are not constrained by reset is the spec's decision
D32, that `rst` at any time is power-on its D26; the power-on values of the registers beside the channels' are D19 and
D20 (log entry 7) and the actions of a trace log entry 1 (both DESIGN CHOICE). -/
def Obligations.FirstNotificationAfterReset : Prop :=
  ∀ (s : State) (c : Chan), s.sig.get c = false →
    ∃ t, runTrace [.rst, notify s.cfg c] s = .next t ∧
      (s.cfg.mode c = .dual → t.lw.get c = s.now ∧ t.upd.get c = true) ∧
      (s.cfg.mode c = .change → t = State.powerOn s.cfg s.sched s.T s.sig)

/-- Handler operations of different channels commute at one clock reading (`40_capture.md` section 5; that any order
may occur is the spec's decision D24; the actions of a trace are log entry 1, DESIGN CHOICE). -/
def Obligations.HandlersCommute : Prop :=
  ∀ (s : State) (c d : Chan), c ≠ d →
    ∃ t, runTrace [notify s.cfg c, notify s.cfg d] s = .next t ∧
      runTrace [notify s.cfg d, notify s.cfg c] s = .next t

/-- `10_state.md` R36: a handler operation writes only its own channel's registers (and `CHG` the remembered level,
which is its channel's), and what it writes depends on nothing but those, that channel's level and the clock. -/
def Obligations.HandlerTouchesOwnChannelOnly : Prop :=
  ∀ (i : Instr) (s t : State) (c : Chan), i = handlerOf s.cfg c → exec i s = .next t →
    t = { s with
          est := s.est.set c (t.est.get c), lw := s.lw.set c (t.lw.get c), upd := s.upd.set c (t.upd.get c),
          ll := if s.cfg.mode c = .change then t.ll else s.ll } ∧
    ∀ s' : State, s'.cfg = s.cfg → s'.T = s.T → s'.sig.get c = s.sig.get c →
      s'.est.get c = s.est.get c → s'.lw.get c = s.lw.get c → s'.upd.get c = s.upd.get c →
      (s.cfg.mode c = .change → s'.ll = s.ll) →
      ∃ t', exec i s' = .next t' ∧ t'.est.get c = t.est.get c ∧ t'.lw.get c = t.lw.get c ∧
        t'.upd.get c = t.upd.get c ∧ (s.cfg.mode c = .change → t'.ll = t.ll)

/-! ## Handoff -/

/-- `POLL c`: its word, its place in the ROM and its two targets; only `phase` changes (`41_handoff.md` section 1; the
sequencer is the spec's decision D9, log entry 8, DESIGN CHOICE; the word its decision D11). -/
def Obligations.PollOperation : Prop :=
  ∀ (s : State) (c : Chan), s.phase = BitVec.ofNat 4 (4 * c.val) →
    encode (.poll c) = BitVec.ofNat 8 (0x40 + 4 * c.val) ∧ romWord s.phase = some (encode (.poll c)) ∧
    (s.upd.get c = true → exec (.poll c) s = .next { s with phase := BitVec.ofNat 4 (4 * c.val + 1) }) ∧
    (s.upd.get c = false → exec (.poll c) s = .next { s with phase := BitVec.ofNat 4 (4 * c.val + 4) })

/-- `READ c`: only `cw` and `phase` change (`41_handoff.md` section 1; the latch is the spec's
decision D10, the place in the ROM D9, log entry 8, DESIGN CHOICE, and the word D11). -/
def Obligations.ReadOperation : Prop :=
  ∀ (s : State) (c : Chan), s.phase = BitVec.ofNat 4 (4 * c.val + 1) →
    encode (.read c) = BitVec.ofNat 8 (0x50 + 4 * c.val) ∧ romWord s.phase = some (encode (.read c)) ∧
    exec (.read c) s = .next { s with cw := s.lw.get c, phase := BitVec.ofNat 4 (4 * c.val + 2) }

/-- `CLR c` (`41_handoff.md` section 1): its word, its place in the ROM, a plain write of 0 whatever the flag was, and
nothing else but `phase`. The place in the ROM is the spec's decision D9 (log entry 8, DESIGN CHOICE), the word D11. -/
def Obligations.ClrOperation : Prop :=
  ∀ (s : State) (c : Chan), s.phase = BitVec.ofNat 4 (4 * c.val + 2) →
    encode (.clr c) = BitVec.ofNat 8 (0x60 + 4 * c.val) ∧ romWord s.phase = some (encode (.clr c)) ∧
    exec (.clr c) s = .next { s with upd := s.upd.set c false, phase := BitVec.ofNat 4 (4 * c.val + 3) }

/-- The four places where a handler operation that publishes can fall in a consume sequence: which width the main loop
takes, and what the flag and the width register hold after `CLR c` and the handler (`41_handoff.md` section 2). The
order of the ROM is the spec's decision D9 (log entry 8, DESIGN CHOICE), the latch `cw` its decision D10; the actions
of a trace are log entry 1 (DESIGN CHOICE). -/
def Obligations.HandoffRaceCases : Prop :=
  ∀ (s : State) (c : Chan), s.phase = BitVec.ofNat 4 (4 * c.val) → s.upd.get c = true → publishes c s →
    ∃ tA tB tC tD : State,
      runTrace [notify s.cfg c, .main, .main, .main] s = .next tA ∧
      runTrace [.main, notify s.cfg c, .main, .main] s = .next tB ∧
      runTrace [.main, .main, notify s.cfg c, .main] s = .next tC ∧
      runTrace [.main, .main, .main, notify s.cfg c] s = .next tD ∧
      (tA.cw = s.now - s.est.get c ∧ tA.upd.get c = false ∧ tA.lw.get c = s.now - s.est.get c) ∧
      (tB.cw = s.now - s.est.get c ∧ tB.upd.get c = false ∧ tB.lw.get c = s.now - s.est.get c) ∧
      (tC.cw = s.lw.get c ∧ tC.upd.get c = false ∧ tC.lw.get c = s.now - s.est.get c) ∧
      (tD.cw = s.lw.get c ∧ tD.upd.get c = true ∧ tD.lw.get c = s.now - s.est.get c)

/-- `READ c` is executed only with `upd[c] = 1` (`41_handoff.md` section 2): in a legal state, if a step of any agent
brings the sequencer to `READ c`, the flag is 1 there. The ROM is the spec's decision D9 (log entry 8, DESIGN CHOICE),
that a reset goes to phase 0 its decision D20 (log entry 7, DESIGN CHOICE); the schedule is log entry 1 (DESIGN
CHOICE). -/
def Obligations.ReadOnlyWithFlag : Prop :=
  ∀ (s t : State) (c : Chan), Legal s → step s = .next t → romWord t.phase = some (encode (.read c)) →
    t.upd.get c = true

/-! ## ChannelInterpreter -/

/-- The linear map is the printed formula evaluated exactly and truncated once (`42_interpret.md` section 1; the spec's
decisions D16, D17, log entry 8, DESIGN CHOICE). -/
def Obligations.LinearMapIsExact : Prop :=
  ∀ w inMin inMax outMin outMax : Nat, inMin ≤ w → w ≤ inMax → inMin < inMax → outMin ≤ outMax →
    (linmap w inMin inMax outMin outMax : Int) =
      ⌊((w : ℚ) - inMin) / ((inMax : ℚ) - inMin) * ((outMax : ℚ) - outMin) + outMin⌋

/-- `IBRT`: its word, its place in the ROM, the map in range and 0 out of range, in the register and the output; nothing
else but `phase` (`42_interpret.md` section 2; that `bri` is cleared too is the spec's decision D21, the exact map D16
and D17 and the place in the ROM D9, log entry 8, DESIGN CHOICE; the word is D11). -/
def Obligations.IbrtOperation : Prop :=
  ∀ s : State, s.phase = 3 →
    encode .ibrt = 0x70 ∧ romWord s.phase = some (encode .ibrt) ∧
    (1000 ≤ s.cw.toNat ∧ s.cw.toNat ≤ 2000 →
      exec .ibrt s = .next { s with
        bri := BitVec.ofNat 8 ((s.cw.toNat - 1000) * 255 / 1000)
        outBri := BitVec.ofNat 8 ((s.cw.toNat - 1000) * 255 / 1000)
        phase := 4 }) ∧
    (s.cw.toNat < 1000 ∨ 2000 < s.cw.toNat → exec .ibrt s = .next { s with bri := 0, outBri := 0, phase := 4 })

/-- `IPWR`: its word, its place in the ROM and its three arms, the output held on NO_SIGNAL; nothing else but `phase`
(`42_interpret.md` section 3; the codes of the three states are the spec's decision D14, the place in the ROM D9, log
entry 8, DESIGN CHOICE; the word is D11). -/
def Obligations.IpwrOperation : Prop :=
  ∀ s : State, s.phase = 7 →
    encode .ipwr = 0x74 ∧ romWord s.phase = some (encode .ipwr) ∧
    (1500 ≤ s.cw.toNat → exec .ipwr s = .next { s with pwr := .on, outPwr := true, phase := 8 }) ∧
    (500 < s.cw.toNat ∧ s.cw.toNat < 1500 →
      exec .ipwr s = .next { s with pwr := .off, outPwr := false, phase := 8 }) ∧
    (s.cw.toNat ≤ 500 → exec .ipwr s = .next { s with pwr := .noSignal, phase := 8 })

/-- `IHUE` (`42_interpret.md` section 4): its word, its place in the ROM, the map in range and the hue held out of
range; nothing else but `phase`, in particular no output. The exact map is the spec's decisions D16 and D17 and the
place in the ROM its decision D9 (log entry 8, DESIGN CHOICE); the word is D11. -/
def Obligations.IhueOperation : Prop :=
  ∀ s : State, s.phase = 11 →
    encode .ihue = 0x78 ∧ romWord s.phase = some (encode .ihue) ∧
    (1000 ≤ s.cw.toNat ∧ s.cw.toNat ≤ 2000 →
      exec .ihue s = .next { s with hue := BitVec.ofNat 9 ((s.cw.toNat - 1000) * 360 / 1000), phase := 12 }) ∧
    (s.cw.toNat < 1000 ∨ 2000 < s.cw.toNat → exec .ihue s = .next { s with phase := 12 })

/-- Brightness and hue are monotonic over the valid range and meet their endpoints (`42_interpret.md` section 5;
the exact map is the spec's decisions D16 and D17, log entry 8, DESIGN CHOICE). -/
def Obligations.MappingsMonotonic : Prop :=
  (∀ a b : Nat, 1000 ≤ a → a ≤ b → b ≤ 2000 →
    (brightness a).toNat ≤ (brightness b).toNat ∧
    ∃ ha hb, hueOf a = some ha ∧ hueOf b = some hb ∧ ha.toNat ≤ hb.toNat ∧ hb.toNat ≤ 360) ∧
  brightness 1000 = 0 ∧ brightness 2000 = 255 ∧ hueOf 1000 = some 0 ∧ hueOf 1500 = some 180 ∧ hueOf 2000 = some 360

/-- `42_interpret.md` R145: the same `cw` gives the same `bri`, `pwr` and, when valid, `hue`, whatever the rest of the
state; only the NO_SIGNAL arm's output and the invalid arm's hue come from the state before. -/
def Obligations.InterpretationIsPure : Prop :=
  ∀ s s' : State, s.cw = s'.cw →
    (∀ t t', exec .ibrt s = .next t → exec .ibrt s' = .next t' → t.bri = t'.bri ∧ t.outBri = t'.outBri) ∧
    (∀ t t', exec .ipwr s = .next t → exec .ipwr s' = .next t' →
      t.pwr = t'.pwr ∧ (t.outPwr = t'.outPwr ∨
        t.pwr = .noSignal ∧ t.outPwr = s.outPwr ∧ t'.outPwr = s'.outPwr)) ∧
    (∀ t t', exec .ihue s = .next t → exec .ihue s' = .next t' →
      t.hue = t'.hue ∨ hueOf s.cw.toNat = none ∧ t.hue = s.hue ∧ t'.hue = s'.hue)

/-! ## ColorModel -/

/-- `RGB` (`43_color.md` section 3): its word, its place in the ROM, all three outputs from `hue`, and the iteration is
over; nothing else changes. That hue 360 gives the colour of 0 is the spec's decision D18, the exact levels D16 and the
place in the ROM D9 (log entry 8, DESIGN CHOICE); the word is D11. -/
def Obligations.RgbOperation : Prop :=
  ∀ s : State, s.phase = 12 →
    encode .rgb = 0x80 ∧ romWord s.phase = some (encode .rgb) ∧
    exec .rgb s = .next { s with
      outR := (hueToRGB s.hue).r, outG := (hueToRGB s.hue).g, outB := (hueToRGB s.hue).b, phase := 0 } ∧
    (s.hue = 360 ∨ s.hue = 0 → hueToRGB s.hue = ⟨255, 0, 0⟩) ∧ (s.hue = 180 → hueToRGB s.hue = ⟨0, 255, 255⟩)

/-- The integer converter is the printed algorithm in exact arithmetic, each level scaled by 255 and truncated, for
every hue below 360; and at 360 the printed steps give a level above 255, which is why the model wraps there
(`43_color.md` sections 1 and 2; `90_conflicts.md` C5; the spec's decisions D16, D18, log entry 8, DESIGN CHOICE). -/
def Obligations.HueToRgbIsExact : Prop :=
  (∀ hue : BitVec 9, hue.toNat < 360 →
    ((hueToRGB hue).r.toNat : Int) = ⌊(idealLevels hue.toNat).1 * 255⌋ ∧
    ((hueToRGB hue).g.toNat : Int) = ⌊(idealLevels hue.toNat).2.1 * 255⌋ ∧
    ((hueToRGB hue).b.toNat : Int) = ⌊(idealLevels hue.toNat).2.2 * 255⌋) ∧
  ⌊(idealLevels 360).2.1 * 255⌋ = 1530

/-- The wrap policy: a hue of 360 or more has the colour of the hue 360 degrees less (`43_color.md` section 2; the
spec's decision D18, log entry 8, DESIGN CHOICE). -/
def Obligations.HueWraps : Prop :=
  ∀ hue : BitVec 9, 360 ≤ hue.toNat → hueToRGB hue = hueToRGB (hue - 360)

/-- The six reference colours, and a second `RGB` with no `IHUE` between writes the same three values and leaves `hue`
(`43_color.md` section 4). Exact arithmetic is the spec's decision D16 and the place of `RGB`, phase 12, its decision
D9 (log entry 8, DESIGN CHOICE). -/
def Obligations.ColourIdempotentAndReferenced : Prop :=
  (hueToRGB 0 = ⟨255, 0, 0⟩ ∧ hueToRGB 120 = ⟨0, 255, 0⟩ ∧ hueToRGB 240 = ⟨0, 0, 255⟩ ∧
   hueToRGB 60 = ⟨255, 255, 0⟩ ∧ hueToRGB 180 = ⟨0, 255, 255⟩ ∧ hueToRGB 300 = ⟨255, 0, 255⟩) ∧
  (∀ s t : State, exec .rgb s = .next t →
    t.hue = s.hue ∧ exec .rgb { t with phase := 12 } = .next t)

/-- Every colour has a level at 255 and a level at 0 (`43_color.md` section 1, the sector table; exact
arithmetic and the wrap at 360 are the spec's decisions D16 and D18, log entry 8, DESIGN CHOICE). -/
def Obligations.ColourFullAndDark : Prop :=
  ∀ hue : BitVec 9,
    ((hueToRGB hue).r = 255 ∨ (hueToRGB hue).g = 255 ∨ (hueToRGB hue).b = 255) ∧
    ((hueToRGB hue).r = 0 ∨ (hueToRGB hue).g = 0 ∨ (hueToRGB hue).b = 0)

/-! ## Whole machine -/

/-- When the word fetched decodes to an operation, the step is that operation's meaning: a scheduled line (which the
step takes off the schedule), a scheduled turn of the main context, and, with nothing scheduled, the main context
itself (`41_handoff.md` section 1, `30_encoding.md` section 6). The schedule, the taking of an action off it, and that
the main context steps when it is empty are the model's own (log entry 1, DESIGN CHOICE); the ROM is the spec's
decision D9. -/
def Obligations.StepRunsDecoded : Prop :=
  (∀ (s : State) (w : Byte) (rest : List Event) (i : Instr),
    s.sched = .line w :: rest → decode s.cfg w = .ok i → step s = exec i { s with sched := rest }) ∧
  (∀ (s : State) (w : Byte) (rest : List Event) (i : Instr),
    s.sched = .main :: rest → romWord s.phase = some w → decode s.cfg w = .ok i →
    step s = exec i { s with sched := rest }) ∧
  (∀ (s : State) (w : Byte) (i : Instr),
    s.sched = [] → romWord s.phase = some w → decode s.cfg w = .ok i → step s = exec i s)

/-- The environment's actions change the inputs only (`30_encoding.md` section 6; the spec's decisions D8, D11; the
schedule is log entry 1, DESIGN CHOICE). -/
def Obligations.EnvironmentMovesInputsOnly : Prop :=
  ∀ (s : State) (rest : List Event),
    (∀ t, s.sched = .time t :: rest → step s = .next { s with sched := rest, T := BitVec.ofNat 32 t }) ∧
    (∀ d, s.sched = .tick d :: rest →
      step s = .next { s with sched := rest, T := BitVec.ofNat 32 (s.T.toNat + d) }) ∧
    (∀ c v, s.sched = .sig c v :: rest → step s = .next { s with sched := rest, sig := s.sig.set c v })

/-- `20_memory.md` R63: one writer per field, over every operation. -/
def Obligations.SingleWriterPerField : Prop :=
  ∀ (i : Instr) (s t : State), exec i s = .next t →
    (∀ c : Chan, (t.est.get c ≠ s.est.get c ∨ t.lw.get c ≠ s.lw.get c) → i = handlerOf s.cfg c) ∧
    (t.ll ≠ s.ll → i = .chg) ∧
    (∀ c : Chan, t.upd.get c ≠ s.upd.get c →
      (i = handlerOf s.cfg c ∧ t.upd.get c = true) ∨ (i.context = .main ∧ t.upd.get c = false)) ∧
    ((t.bri ≠ s.bri ∨ t.pwr ≠ s.pwr ∨ t.hue ≠ s.hue ∨ t.cw ≠ s.cw ∨ t.phase ≠ s.phase ∨ t.outBri ≠ s.outBri ∨
      t.outPwr ≠ s.outPwr ∨ t.outR ≠ s.outR ∨ t.outG ≠ s.outG ∨ t.outB ≠ s.outB) → i.context = .main)

/-- The frame of every operation: a register outside the write columns of `10_state.md` section 6 keeps its value, and
no operation writes the clock, an input level, the instance's constants or the schedule. The numbers of the registers
are the spec's decision D22, the registers `phase` and `cw` its decisions D9 (log entry 8, DESIGN CHOICE) and D10; the
instance's constants and the schedule are fields of the model (log entries 5 and 1, DESIGN CHOICE). -/
def Obligations.OperationsWriteOnlyTheirRegisters : Prop :=
  ∀ (i : Instr) (s t : State), exec i s = .next t →
    (∀ r : Reg, mayWrite s.cfg i r = false → t.reg r = s.reg r) ∧
    t.T = s.T ∧ t.sig = s.sig ∧ t.cfg = s.cfg ∧ t.sched = s.sched

/-- Nothing outside the read columns of `10_state.md` section 6 can influence an operation: two states that agree on
what it may read (and, for a handler, on its channel's level and the clock) give each register it may write the same
value, or both leave it alone. The main loop therefore learns nothing of `est`, `ll`, the levels or the clock. The
numbers of the registers are the spec's decision D22, the registers `phase` and `cw` its decisions D9 (log entry 8,
DESIGN CHOICE) and D10; the instance's constants are log entry 5 (DESIGN CHOICE). -/
def Obligations.OperationsDependOnlyOnTheirReads : Prop :=
  ∀ (i : Instr) (s s' t t' : State), s.cfg = s'.cfg →
    (∀ r : Reg, mayRead s.cfg i r = true → s.reg r = s'.reg r) →
    (∀ c : Chan, sampledChannel s.cfg i = some c → s.sig.get c = s'.sig.get c ∧ s.T = s'.T) →
    exec i s = .next t → exec i s' = .next t' →
    ∀ r : Reg, mayWrite s.cfg i r = true →
      t.reg r = t'.reg r ∨ (t.reg r = s.reg r ∧ t'.reg r = s'.reg r)

/-- The flat register space: a number names at most one register, every register has its number, and a register's
content fits its width (`10_state.md` sections 1 and 6). The numbers are the spec's decision D22, the code of `pwr`
its D14, the widths its D15 and, for timestamps, its D3 (log entry 4, DESIGN CHOICE). -/
def Obligations.RegisterNumbersName : Prop :=
  (∀ (n : Nat) (r : Reg), Reg.ofNumber n = some r ↔ r.number = n) ∧
  (∀ (s : State) (r : Reg), s.reg r < 2 ^ r.width)

/-- A legal state stays legal, whatever the environment does and whichever agent steps (`10_state.md` section 4,
`41_handoff.md` section 2, and section 9 of `10_state.md` for `rst`). The positions of `READ c` and `CLR c`, 4c+1 and
4c+2, and the last of the ROM, 12, are the spec's decision D9 (log entry 8, DESIGN CHOICE); that `rst` goes to phase 0
and to the instance's hue is its decisions D19 and D20 (log entry 7, DESIGN CHOICE); the schedule is log entry 1
(DESIGN CHOICE). -/
def Obligations.StepKeepsLegal : Prop :=
  ∀ s t : State, Legal s → step s = .next t → Legal t

/-- The power-on state of every well-formed instance is legal, whatever the inputs and the schedule, and so is
`State.reset` (`10_state.md` section 9). That `phase` is 0 and `hue` the instance's `RESET_HUE` are the spec's
decisions D20 and D19 (log entry 7, DESIGN CHOICE); `State.reset` is the default instance of log entry 5 (DESIGN
CHOICE); the ROM's positions are D9 (log entry 8, DESIGN CHOICE). -/
def Obligations.PowerOnLegal : Prop :=
  Legal State.reset ∧
  ∀ (p : Params) (sched : List Event) (T : Word) (sig : PerChan Bool), p.wf = true →
    Legal (State.powerOn p sched T sig)

/-- The outputs keep showing DerivedState through every step of every agent but `rst`: brightness and power at once,
the colour in the same iteration (`42_interpret.md` section 5, `43_color.md` section 3, `70_reset_and_hazards.md`
section 3). That `bri` follows the output is the spec's decision D21, that `RGB` (phase 12) stands right after `IHUE`
its decision D9 (log entry 8, DESIGN CHOICE); the schedule is log entry 1 (DESIGN CHOICE). -/
def Obligations.OutputsFollowDerivedState : Prop :=
  ∀ s t : State, Shown s → (∀ rest, s.sched ≠ .rst :: rest) → step s = .next t → Shown t

/-- Nothing ever blocks: in a legal state every step completes, unless the schedule's next line is one the hardware
cannot issue (`00_scope.md` section 4, `60_exceptions.md` section 1). The ROM is the spec's decision D9 (log entry 8,
DESIGN CHOICE), the lines refused its decisions D12 and D28; log entries 9 (DEDUCED) and 10 (DESIGN CHOICE) name the
two refusals of main operations; the schedule is log entry 1 (DESIGN CHOICE). -/
def Obligations.NeverStuck : Prop :=
  ∀ s : State, Legal s →
    (∀ (w : Byte) (rest : List Event), s.sched = .line w :: rest →
      ∃ i, decode s.cfg w = .ok i ∧ (i.context = .main → romWord s.phase = some w)) →
    ∃ t, step s = .next t

/-- The schedule is a total order: running the machine over a scheduled list of actions is running them one after the
other, each on the state the one before left (`20_memory.md` section 4; the schedule is log entry 1, DESIGN CHOICE). -/
def Obligations.ScheduleRunsInOrder : Prop :=
  ∀ (es rest : List Event) (s t : State), s.sched = rest →
    (Sys2Proof.core.run es.length { s with sched := es ++ rest } = .next t ↔ runTrace es s = .next t)

/-- One undisturbed iteration of the main loop, from every state at `phase = 0`, takes exactly 4 steps and 3 more per
flag, and is the one-shot summary: each flagged channel is interpreted from its own width, every flag is cleared, and
the colours are those of the new hue. `LOOP` as a trace gives the same (`30_encoding.md` sections 6 and 7). The order
of the ROM is the spec's decision D9 (log entry 8, DESIGN CHOICE), the latch `cw` its D10, `LOOP` its D11, `bri`
cleared with its output D21; that the main context steps with nothing scheduled is log entry 1 (DESIGN CHOICE). -/
def Obligations.IterationIsItsSummary : Prop :=
  ∀ s : State, s.phase = 0 →
    runTrace (loop s) s = .next (iteration s) ∧
    (s.sched = [] → Sys2Proof.core.run (iterationLength s) s = .next (iteration s))

/-- Progress: with nothing scheduled, the main loop is back at `phase = 0` within 13 steps of any phase of the ROM
(`30_encoding.md` section 7; the ROM is the spec's decision D9, log entry 8, and the schedule log entry 1, both DESIGN
CHOICE). -/
def Obligations.IterationEndsWithinThirteen : Prop :=
  ∀ s : State, s.sched = [] → s.phase.toNat ≤ 12 →
    ∃ (k : Nat) (t : State), 1 ≤ k ∧ k ≤ 13 ∧ Sys2Proof.core.run k s = .next t ∧ t.phase = 0 ∧ t.sched = []

/-- Last-known-value hold: with no measurement pending and none arriving, however long the main loop runs from a
`POLL` or from `RGB`, `cw`, DerivedState and the brightness and power outputs keep their values (`10_state.md` section
4, `41_handoff.md` section 2). The ROM is the spec's decision D9 (log entry 8, DESIGN CHOICE), the latch `cw` its D10;
the schedule is log entry 1 (DESIGN CHOICE). -/
def Obligations.HoldWithoutMeasurement : Prop :=
  ∀ (k : Nat) (s : State), s.sched = [] → s.upd = ⟨false, false, false⟩ → s.phase.toNat % 4 = 0 →
    s.phase.toNat ≤ 12 →
    ∃ t, Sys2Proof.core.run k s = .next t ∧ t.bri = s.bri ∧ t.pwr = s.pwr ∧ t.hue = s.hue ∧ t.cw = s.cw ∧
      t.outBri = s.outBri ∧ t.outPwr = s.outPwr

/-- The first iteration after reset with no notification: four steps, the colours of the reset hue, everything else at
its reset value; in the standard instance red is full on (`70_reset_and_hazards.md` section 2). The reset values are
the spec's decisions D19 and D20 (log entry 7), the standard instance log entry 5, the four steps the ROM of its
decision D9 (log entry 8) and the schedule log entry 1, all DESIGN CHOICE. -/
def Obligations.FirstIterationAfterReset : Prop :=
  (∀ (p : Params) (T : Word) (sig : PerChan Bool),
    Sys2Proof.core.run 4 (State.powerOn p [] T sig) = .next { State.powerOn p [] T sig with
      outR := (hueToRGB p.resetHue).r, outG := (hueToRGB p.resetHue).g, outB := (hueToRGB p.resetHue).b }) ∧
  hueToRGB Params.standard.resetHue = ⟨255, 0, 0⟩

/-- The start-up hazard on the power channel: after reset in mid-pulse, if power is a `DUAL` channel and the clock
reads 1500 or more, the first (LOW) notification switches the output on; on the change-only channel the reset output
stays off (`70_reset_and_hazards.md` section 3). How many turns of the main context this takes, and phase 8 at its
end, are the order of the ROM, the spec's decision D9 (log entry 8, DESIGN CHOICE); the reset values of the output and
of `phase` are its decision D20 (log entry 7, DESIGN CHOICE), the latch `cw` D10, the inputs free at reset D32, `rst`
at any time D26; the actions of a trace are log entry 1 (DESIGN CHOICE). -/
def Obligations.SpuriousSwitchOn : Prop :=
  ∀ s : State, s.sig.get 1 = false →
    (s.cfg.mode 1 = .dual → 1500 ≤ s.now.toNat →
      ∃ t, runTrace [.rst, notify s.cfg 1, .main, .main, .main, .main, .main] s = .next t ∧
        t.pwr = .on ∧ t.outPwr = true ∧ t.phase = 8) ∧
    (s.cfg.mode 1 = .change →
      ∃ t, runTrace [.rst, notify s.cfg 1, .main, .main] s = .next t ∧ t.outPwr = false ∧ t.phase = 8)
end

