-- ==== Sys2Proof/Laws/State.lean ====
section
/-! SUPPORT. One value per channel: what a read gives after a write. State: one lemma per field per update. -/

namespace Sys2Proof

section PerChan

variable {α : Type} (a : PerChan α) (c d : Chan) (x y : α)

theorem PerChan.get_set : (a.set c x).get d = if d = c then x else a.get d := by
  fin_cases c <;> fin_cases d <;> rfl

@[simp] theorem PerChan.get_set_self : (a.set c x).get c = x := by simp [PerChan.get_set]

theorem PerChan.get_set_ne {a : PerChan α} {c d : Chan} {x : α} (h : d ≠ c) : (a.set c x).get d = a.get d := by
  simp [PerChan.get_set, h]

@[simp] theorem PerChan.set_get : a.set c (a.get c) = a := by fin_cases c <;> rfl

@[simp] theorem PerChan.set_set : (a.set c x).set c y = a.set c y := by fin_cases c <;> rfl

theorem PerChan.set_comm {a : PerChan α} {c d : Chan} {x y : α} (h : c ≠ d) :
    (a.set c x).set d y = (a.set d y).set c x := by
  revert h
  fin_cases c <;> fin_cases d <;> intro h <;> first | rfl | exact absurd rfl h

theorem PerChan.ext_get {a b : PerChan α} (h : ∀ c, a.get c = b.get c) : a = b := by
  obtain ⟨a0, a1, a2⟩ := a
  obtain ⟨b0, b1, b2⟩ := b
  have h0 : a0 = b0 := h 0
  have h1 : a1 = b1 := h 1
  have h2 : a2 = b2 := h 2
  subst h0 h1 h2
  rfl

end PerChan

namespace Machine

/-! `withSched` -/

@[simp] theorem State.withSched_cfg (s : State) (x : List Event) : (s.withSched x).cfg = s.cfg := rfl
@[simp] theorem State.withSched_sched (s : State) (x : List Event) : (s.withSched x).sched = x := rfl
@[simp] theorem State.withSched_T (s : State) (x : List Event) : (s.withSched x).T = s.T := rfl
@[simp] theorem State.withSched_sig (s : State) (x : List Event) : (s.withSched x).sig = s.sig := rfl
@[simp] theorem State.withSched_est (s : State) (x : List Event) : (s.withSched x).est = s.est := rfl
@[simp] theorem State.withSched_lw (s : State) (x : List Event) : (s.withSched x).lw = s.lw := rfl
@[simp] theorem State.withSched_upd (s : State) (x : List Event) : (s.withSched x).upd = s.upd := rfl
@[simp] theorem State.withSched_ll (s : State) (x : List Event) : (s.withSched x).ll = s.ll := rfl
@[simp] theorem State.withSched_bri (s : State) (x : List Event) : (s.withSched x).bri = s.bri := rfl
@[simp] theorem State.withSched_pwr (s : State) (x : List Event) : (s.withSched x).pwr = s.pwr := rfl
@[simp] theorem State.withSched_hue (s : State) (x : List Event) : (s.withSched x).hue = s.hue := rfl
@[simp] theorem State.withSched_cw (s : State) (x : List Event) : (s.withSched x).cw = s.cw := rfl
@[simp] theorem State.withSched_phase (s : State) (x : List Event) : (s.withSched x).phase = s.phase := rfl
@[simp] theorem State.withSched_outBri (s : State) (x : List Event) : (s.withSched x).outBri = s.outBri := rfl
@[simp] theorem State.withSched_outPwr (s : State) (x : List Event) : (s.withSched x).outPwr = s.outPwr := rfl
@[simp] theorem State.withSched_outR (s : State) (x : List Event) : (s.withSched x).outR = s.outR := rfl
@[simp] theorem State.withSched_outG (s : State) (x : List Event) : (s.withSched x).outG = s.outG := rfl
@[simp] theorem State.withSched_outB (s : State) (x : List Event) : (s.withSched x).outB = s.outB := rfl

/-! `withT` -/

@[simp] theorem State.withT_cfg (s : State) (x : Word) : (s.withT x).cfg = s.cfg := rfl
@[simp] theorem State.withT_sched (s : State) (x : Word) : (s.withT x).sched = s.sched := rfl
@[simp] theorem State.withT_T (s : State) (x : Word) : (s.withT x).T = x := rfl
@[simp] theorem State.withT_sig (s : State) (x : Word) : (s.withT x).sig = s.sig := rfl
@[simp] theorem State.withT_est (s : State) (x : Word) : (s.withT x).est = s.est := rfl
@[simp] theorem State.withT_lw (s : State) (x : Word) : (s.withT x).lw = s.lw := rfl
@[simp] theorem State.withT_upd (s : State) (x : Word) : (s.withT x).upd = s.upd := rfl
@[simp] theorem State.withT_ll (s : State) (x : Word) : (s.withT x).ll = s.ll := rfl
@[simp] theorem State.withT_bri (s : State) (x : Word) : (s.withT x).bri = s.bri := rfl
@[simp] theorem State.withT_pwr (s : State) (x : Word) : (s.withT x).pwr = s.pwr := rfl
@[simp] theorem State.withT_hue (s : State) (x : Word) : (s.withT x).hue = s.hue := rfl
@[simp] theorem State.withT_cw (s : State) (x : Word) : (s.withT x).cw = s.cw := rfl
@[simp] theorem State.withT_phase (s : State) (x : Word) : (s.withT x).phase = s.phase := rfl
@[simp] theorem State.withT_outBri (s : State) (x : Word) : (s.withT x).outBri = s.outBri := rfl
@[simp] theorem State.withT_outPwr (s : State) (x : Word) : (s.withT x).outPwr = s.outPwr := rfl
@[simp] theorem State.withT_outR (s : State) (x : Word) : (s.withT x).outR = s.outR := rfl
@[simp] theorem State.withT_outG (s : State) (x : Word) : (s.withT x).outG = s.outG := rfl
@[simp] theorem State.withT_outB (s : State) (x : Word) : (s.withT x).outB = s.outB := rfl

/-! `withSig` -/

@[simp] theorem State.withSig_cfg (s : State) (c : Chan) (x : Bool) : (s.withSig c x).cfg = s.cfg := rfl
@[simp] theorem State.withSig_sched (s : State) (c : Chan) (x : Bool) : (s.withSig c x).sched = s.sched := rfl
@[simp] theorem State.withSig_T (s : State) (c : Chan) (x : Bool) : (s.withSig c x).T = s.T := rfl
@[simp] theorem State.withSig_sig (s : State) (c : Chan) (x : Bool) : (s.withSig c x).sig = s.sig.set c x := rfl
@[simp] theorem State.withSig_est (s : State) (c : Chan) (x : Bool) : (s.withSig c x).est = s.est := rfl
@[simp] theorem State.withSig_lw (s : State) (c : Chan) (x : Bool) : (s.withSig c x).lw = s.lw := rfl
@[simp] theorem State.withSig_upd (s : State) (c : Chan) (x : Bool) : (s.withSig c x).upd = s.upd := rfl
@[simp] theorem State.withSig_ll (s : State) (c : Chan) (x : Bool) : (s.withSig c x).ll = s.ll := rfl
@[simp] theorem State.withSig_bri (s : State) (c : Chan) (x : Bool) : (s.withSig c x).bri = s.bri := rfl
@[simp] theorem State.withSig_pwr (s : State) (c : Chan) (x : Bool) : (s.withSig c x).pwr = s.pwr := rfl
@[simp] theorem State.withSig_hue (s : State) (c : Chan) (x : Bool) : (s.withSig c x).hue = s.hue := rfl
@[simp] theorem State.withSig_cw (s : State) (c : Chan) (x : Bool) : (s.withSig c x).cw = s.cw := rfl
@[simp] theorem State.withSig_phase (s : State) (c : Chan) (x : Bool) : (s.withSig c x).phase = s.phase := rfl
@[simp] theorem State.withSig_outBri (s : State) (c : Chan) (x : Bool) : (s.withSig c x).outBri = s.outBri := rfl
@[simp] theorem State.withSig_outPwr (s : State) (c : Chan) (x : Bool) : (s.withSig c x).outPwr = s.outPwr := rfl
@[simp] theorem State.withSig_outR (s : State) (c : Chan) (x : Bool) : (s.withSig c x).outR = s.outR := rfl
@[simp] theorem State.withSig_outG (s : State) (c : Chan) (x : Bool) : (s.withSig c x).outG = s.outG := rfl
@[simp] theorem State.withSig_outB (s : State) (c : Chan) (x : Bool) : (s.withSig c x).outB = s.outB := rfl

/-! `withEst` -/

@[simp] theorem State.withEst_cfg (s : State) (c : Chan) (x : Word) : (s.withEst c x).cfg = s.cfg := rfl
@[simp] theorem State.withEst_sched (s : State) (c : Chan) (x : Word) : (s.withEst c x).sched = s.sched := rfl
@[simp] theorem State.withEst_T (s : State) (c : Chan) (x : Word) : (s.withEst c x).T = s.T := rfl
@[simp] theorem State.withEst_sig (s : State) (c : Chan) (x : Word) : (s.withEst c x).sig = s.sig := rfl
@[simp] theorem State.withEst_est (s : State) (c : Chan) (x : Word) : (s.withEst c x).est = s.est.set c x := rfl
@[simp] theorem State.withEst_lw (s : State) (c : Chan) (x : Word) : (s.withEst c x).lw = s.lw := rfl
@[simp] theorem State.withEst_upd (s : State) (c : Chan) (x : Word) : (s.withEst c x).upd = s.upd := rfl
@[simp] theorem State.withEst_ll (s : State) (c : Chan) (x : Word) : (s.withEst c x).ll = s.ll := rfl
@[simp] theorem State.withEst_bri (s : State) (c : Chan) (x : Word) : (s.withEst c x).bri = s.bri := rfl
@[simp] theorem State.withEst_pwr (s : State) (c : Chan) (x : Word) : (s.withEst c x).pwr = s.pwr := rfl
@[simp] theorem State.withEst_hue (s : State) (c : Chan) (x : Word) : (s.withEst c x).hue = s.hue := rfl
@[simp] theorem State.withEst_cw (s : State) (c : Chan) (x : Word) : (s.withEst c x).cw = s.cw := rfl
@[simp] theorem State.withEst_phase (s : State) (c : Chan) (x : Word) : (s.withEst c x).phase = s.phase := rfl
@[simp] theorem State.withEst_outBri (s : State) (c : Chan) (x : Word) : (s.withEst c x).outBri = s.outBri := rfl
@[simp] theorem State.withEst_outPwr (s : State) (c : Chan) (x : Word) : (s.withEst c x).outPwr = s.outPwr := rfl
@[simp] theorem State.withEst_outR (s : State) (c : Chan) (x : Word) : (s.withEst c x).outR = s.outR := rfl
@[simp] theorem State.withEst_outG (s : State) (c : Chan) (x : Word) : (s.withEst c x).outG = s.outG := rfl
@[simp] theorem State.withEst_outB (s : State) (c : Chan) (x : Word) : (s.withEst c x).outB = s.outB := rfl

/-! `withLw` -/

@[simp] theorem State.withLw_cfg (s : State) (c : Chan) (x : Word) : (s.withLw c x).cfg = s.cfg := rfl
@[simp] theorem State.withLw_sched (s : State) (c : Chan) (x : Word) : (s.withLw c x).sched = s.sched := rfl
@[simp] theorem State.withLw_T (s : State) (c : Chan) (x : Word) : (s.withLw c x).T = s.T := rfl
@[simp] theorem State.withLw_sig (s : State) (c : Chan) (x : Word) : (s.withLw c x).sig = s.sig := rfl
@[simp] theorem State.withLw_est (s : State) (c : Chan) (x : Word) : (s.withLw c x).est = s.est := rfl
@[simp] theorem State.withLw_lw (s : State) (c : Chan) (x : Word) : (s.withLw c x).lw = s.lw.set c x := rfl
@[simp] theorem State.withLw_upd (s : State) (c : Chan) (x : Word) : (s.withLw c x).upd = s.upd := rfl
@[simp] theorem State.withLw_ll (s : State) (c : Chan) (x : Word) : (s.withLw c x).ll = s.ll := rfl
@[simp] theorem State.withLw_bri (s : State) (c : Chan) (x : Word) : (s.withLw c x).bri = s.bri := rfl
@[simp] theorem State.withLw_pwr (s : State) (c : Chan) (x : Word) : (s.withLw c x).pwr = s.pwr := rfl
@[simp] theorem State.withLw_hue (s : State) (c : Chan) (x : Word) : (s.withLw c x).hue = s.hue := rfl
@[simp] theorem State.withLw_cw (s : State) (c : Chan) (x : Word) : (s.withLw c x).cw = s.cw := rfl
@[simp] theorem State.withLw_phase (s : State) (c : Chan) (x : Word) : (s.withLw c x).phase = s.phase := rfl
@[simp] theorem State.withLw_outBri (s : State) (c : Chan) (x : Word) : (s.withLw c x).outBri = s.outBri := rfl
@[simp] theorem State.withLw_outPwr (s : State) (c : Chan) (x : Word) : (s.withLw c x).outPwr = s.outPwr := rfl
@[simp] theorem State.withLw_outR (s : State) (c : Chan) (x : Word) : (s.withLw c x).outR = s.outR := rfl
@[simp] theorem State.withLw_outG (s : State) (c : Chan) (x : Word) : (s.withLw c x).outG = s.outG := rfl
@[simp] theorem State.withLw_outB (s : State) (c : Chan) (x : Word) : (s.withLw c x).outB = s.outB := rfl

/-! `withUpd` -/

@[simp] theorem State.withUpd_cfg (s : State) (c : Chan) (x : Bool) : (s.withUpd c x).cfg = s.cfg := rfl
@[simp] theorem State.withUpd_sched (s : State) (c : Chan) (x : Bool) : (s.withUpd c x).sched = s.sched := rfl
@[simp] theorem State.withUpd_T (s : State) (c : Chan) (x : Bool) : (s.withUpd c x).T = s.T := rfl
@[simp] theorem State.withUpd_sig (s : State) (c : Chan) (x : Bool) : (s.withUpd c x).sig = s.sig := rfl
@[simp] theorem State.withUpd_est (s : State) (c : Chan) (x : Bool) : (s.withUpd c x).est = s.est := rfl
@[simp] theorem State.withUpd_lw (s : State) (c : Chan) (x : Bool) : (s.withUpd c x).lw = s.lw := rfl
@[simp] theorem State.withUpd_upd (s : State) (c : Chan) (x : Bool) : (s.withUpd c x).upd = s.upd.set c x := rfl
@[simp] theorem State.withUpd_ll (s : State) (c : Chan) (x : Bool) : (s.withUpd c x).ll = s.ll := rfl
@[simp] theorem State.withUpd_bri (s : State) (c : Chan) (x : Bool) : (s.withUpd c x).bri = s.bri := rfl
@[simp] theorem State.withUpd_pwr (s : State) (c : Chan) (x : Bool) : (s.withUpd c x).pwr = s.pwr := rfl
@[simp] theorem State.withUpd_hue (s : State) (c : Chan) (x : Bool) : (s.withUpd c x).hue = s.hue := rfl
@[simp] theorem State.withUpd_cw (s : State) (c : Chan) (x : Bool) : (s.withUpd c x).cw = s.cw := rfl
@[simp] theorem State.withUpd_phase (s : State) (c : Chan) (x : Bool) : (s.withUpd c x).phase = s.phase := rfl
@[simp] theorem State.withUpd_outBri (s : State) (c : Chan) (x : Bool) : (s.withUpd c x).outBri = s.outBri := rfl
@[simp] theorem State.withUpd_outPwr (s : State) (c : Chan) (x : Bool) : (s.withUpd c x).outPwr = s.outPwr := rfl
@[simp] theorem State.withUpd_outR (s : State) (c : Chan) (x : Bool) : (s.withUpd c x).outR = s.outR := rfl
@[simp] theorem State.withUpd_outG (s : State) (c : Chan) (x : Bool) : (s.withUpd c x).outG = s.outG := rfl
@[simp] theorem State.withUpd_outB (s : State) (c : Chan) (x : Bool) : (s.withUpd c x).outB = s.outB := rfl

/-! `withLl` -/

@[simp] theorem State.withLl_cfg (s : State) (x : Bool) : (s.withLl x).cfg = s.cfg := rfl
@[simp] theorem State.withLl_sched (s : State) (x : Bool) : (s.withLl x).sched = s.sched := rfl
@[simp] theorem State.withLl_T (s : State) (x : Bool) : (s.withLl x).T = s.T := rfl
@[simp] theorem State.withLl_sig (s : State) (x : Bool) : (s.withLl x).sig = s.sig := rfl
@[simp] theorem State.withLl_est (s : State) (x : Bool) : (s.withLl x).est = s.est := rfl
@[simp] theorem State.withLl_lw (s : State) (x : Bool) : (s.withLl x).lw = s.lw := rfl
@[simp] theorem State.withLl_upd (s : State) (x : Bool) : (s.withLl x).upd = s.upd := rfl
@[simp] theorem State.withLl_ll (s : State) (x : Bool) : (s.withLl x).ll = x := rfl
@[simp] theorem State.withLl_bri (s : State) (x : Bool) : (s.withLl x).bri = s.bri := rfl
@[simp] theorem State.withLl_pwr (s : State) (x : Bool) : (s.withLl x).pwr = s.pwr := rfl
@[simp] theorem State.withLl_hue (s : State) (x : Bool) : (s.withLl x).hue = s.hue := rfl
@[simp] theorem State.withLl_cw (s : State) (x : Bool) : (s.withLl x).cw = s.cw := rfl
@[simp] theorem State.withLl_phase (s : State) (x : Bool) : (s.withLl x).phase = s.phase := rfl
@[simp] theorem State.withLl_outBri (s : State) (x : Bool) : (s.withLl x).outBri = s.outBri := rfl
@[simp] theorem State.withLl_outPwr (s : State) (x : Bool) : (s.withLl x).outPwr = s.outPwr := rfl
@[simp] theorem State.withLl_outR (s : State) (x : Bool) : (s.withLl x).outR = s.outR := rfl
@[simp] theorem State.withLl_outG (s : State) (x : Bool) : (s.withLl x).outG = s.outG := rfl
@[simp] theorem State.withLl_outB (s : State) (x : Bool) : (s.withLl x).outB = s.outB := rfl

/-! `withBri` -/

@[simp] theorem State.withBri_cfg (s : State) (x : Byte) : (s.withBri x).cfg = s.cfg := rfl
@[simp] theorem State.withBri_sched (s : State) (x : Byte) : (s.withBri x).sched = s.sched := rfl
@[simp] theorem State.withBri_T (s : State) (x : Byte) : (s.withBri x).T = s.T := rfl
@[simp] theorem State.withBri_sig (s : State) (x : Byte) : (s.withBri x).sig = s.sig := rfl
@[simp] theorem State.withBri_est (s : State) (x : Byte) : (s.withBri x).est = s.est := rfl
@[simp] theorem State.withBri_lw (s : State) (x : Byte) : (s.withBri x).lw = s.lw := rfl
@[simp] theorem State.withBri_upd (s : State) (x : Byte) : (s.withBri x).upd = s.upd := rfl
@[simp] theorem State.withBri_ll (s : State) (x : Byte) : (s.withBri x).ll = s.ll := rfl
@[simp] theorem State.withBri_bri (s : State) (x : Byte) : (s.withBri x).bri = x := rfl
@[simp] theorem State.withBri_pwr (s : State) (x : Byte) : (s.withBri x).pwr = s.pwr := rfl
@[simp] theorem State.withBri_hue (s : State) (x : Byte) : (s.withBri x).hue = s.hue := rfl
@[simp] theorem State.withBri_cw (s : State) (x : Byte) : (s.withBri x).cw = s.cw := rfl
@[simp] theorem State.withBri_phase (s : State) (x : Byte) : (s.withBri x).phase = s.phase := rfl
@[simp] theorem State.withBri_outBri (s : State) (x : Byte) : (s.withBri x).outBri = s.outBri := rfl
@[simp] theorem State.withBri_outPwr (s : State) (x : Byte) : (s.withBri x).outPwr = s.outPwr := rfl
@[simp] theorem State.withBri_outR (s : State) (x : Byte) : (s.withBri x).outR = s.outR := rfl
@[simp] theorem State.withBri_outG (s : State) (x : Byte) : (s.withBri x).outG = s.outG := rfl
@[simp] theorem State.withBri_outB (s : State) (x : Byte) : (s.withBri x).outB = s.outB := rfl

/-! `withPwr` -/

@[simp] theorem State.withPwr_cfg (s : State) (x : Power) : (s.withPwr x).cfg = s.cfg := rfl
@[simp] theorem State.withPwr_sched (s : State) (x : Power) : (s.withPwr x).sched = s.sched := rfl
@[simp] theorem State.withPwr_T (s : State) (x : Power) : (s.withPwr x).T = s.T := rfl
@[simp] theorem State.withPwr_sig (s : State) (x : Power) : (s.withPwr x).sig = s.sig := rfl
@[simp] theorem State.withPwr_est (s : State) (x : Power) : (s.withPwr x).est = s.est := rfl
@[simp] theorem State.withPwr_lw (s : State) (x : Power) : (s.withPwr x).lw = s.lw := rfl
@[simp] theorem State.withPwr_upd (s : State) (x : Power) : (s.withPwr x).upd = s.upd := rfl
@[simp] theorem State.withPwr_ll (s : State) (x : Power) : (s.withPwr x).ll = s.ll := rfl
@[simp] theorem State.withPwr_bri (s : State) (x : Power) : (s.withPwr x).bri = s.bri := rfl
@[simp] theorem State.withPwr_pwr (s : State) (x : Power) : (s.withPwr x).pwr = x := rfl
@[simp] theorem State.withPwr_hue (s : State) (x : Power) : (s.withPwr x).hue = s.hue := rfl
@[simp] theorem State.withPwr_cw (s : State) (x : Power) : (s.withPwr x).cw = s.cw := rfl
@[simp] theorem State.withPwr_phase (s : State) (x : Power) : (s.withPwr x).phase = s.phase := rfl
@[simp] theorem State.withPwr_outBri (s : State) (x : Power) : (s.withPwr x).outBri = s.outBri := rfl
@[simp] theorem State.withPwr_outPwr (s : State) (x : Power) : (s.withPwr x).outPwr = s.outPwr := rfl
@[simp] theorem State.withPwr_outR (s : State) (x : Power) : (s.withPwr x).outR = s.outR := rfl
@[simp] theorem State.withPwr_outG (s : State) (x : Power) : (s.withPwr x).outG = s.outG := rfl
@[simp] theorem State.withPwr_outB (s : State) (x : Power) : (s.withPwr x).outB = s.outB := rfl

/-! `withHue` -/

@[simp] theorem State.withHue_cfg (s : State) (x : BitVec 9) : (s.withHue x).cfg = s.cfg := rfl
@[simp] theorem State.withHue_sched (s : State) (x : BitVec 9) : (s.withHue x).sched = s.sched := rfl
@[simp] theorem State.withHue_T (s : State) (x : BitVec 9) : (s.withHue x).T = s.T := rfl
@[simp] theorem State.withHue_sig (s : State) (x : BitVec 9) : (s.withHue x).sig = s.sig := rfl
@[simp] theorem State.withHue_est (s : State) (x : BitVec 9) : (s.withHue x).est = s.est := rfl
@[simp] theorem State.withHue_lw (s : State) (x : BitVec 9) : (s.withHue x).lw = s.lw := rfl
@[simp] theorem State.withHue_upd (s : State) (x : BitVec 9) : (s.withHue x).upd = s.upd := rfl
@[simp] theorem State.withHue_ll (s : State) (x : BitVec 9) : (s.withHue x).ll = s.ll := rfl
@[simp] theorem State.withHue_bri (s : State) (x : BitVec 9) : (s.withHue x).bri = s.bri := rfl
@[simp] theorem State.withHue_pwr (s : State) (x : BitVec 9) : (s.withHue x).pwr = s.pwr := rfl
@[simp] theorem State.withHue_hue (s : State) (x : BitVec 9) : (s.withHue x).hue = x := rfl
@[simp] theorem State.withHue_cw (s : State) (x : BitVec 9) : (s.withHue x).cw = s.cw := rfl
@[simp] theorem State.withHue_phase (s : State) (x : BitVec 9) : (s.withHue x).phase = s.phase := rfl
@[simp] theorem State.withHue_outBri (s : State) (x : BitVec 9) : (s.withHue x).outBri = s.outBri := rfl
@[simp] theorem State.withHue_outPwr (s : State) (x : BitVec 9) : (s.withHue x).outPwr = s.outPwr := rfl
@[simp] theorem State.withHue_outR (s : State) (x : BitVec 9) : (s.withHue x).outR = s.outR := rfl
@[simp] theorem State.withHue_outG (s : State) (x : BitVec 9) : (s.withHue x).outG = s.outG := rfl
@[simp] theorem State.withHue_outB (s : State) (x : BitVec 9) : (s.withHue x).outB = s.outB := rfl

/-! `withCw` -/

@[simp] theorem State.withCw_cfg (s : State) (x : Word) : (s.withCw x).cfg = s.cfg := rfl
@[simp] theorem State.withCw_sched (s : State) (x : Word) : (s.withCw x).sched = s.sched := rfl
@[simp] theorem State.withCw_T (s : State) (x : Word) : (s.withCw x).T = s.T := rfl
@[simp] theorem State.withCw_sig (s : State) (x : Word) : (s.withCw x).sig = s.sig := rfl
@[simp] theorem State.withCw_est (s : State) (x : Word) : (s.withCw x).est = s.est := rfl
@[simp] theorem State.withCw_lw (s : State) (x : Word) : (s.withCw x).lw = s.lw := rfl
@[simp] theorem State.withCw_upd (s : State) (x : Word) : (s.withCw x).upd = s.upd := rfl
@[simp] theorem State.withCw_ll (s : State) (x : Word) : (s.withCw x).ll = s.ll := rfl
@[simp] theorem State.withCw_bri (s : State) (x : Word) : (s.withCw x).bri = s.bri := rfl
@[simp] theorem State.withCw_pwr (s : State) (x : Word) : (s.withCw x).pwr = s.pwr := rfl
@[simp] theorem State.withCw_hue (s : State) (x : Word) : (s.withCw x).hue = s.hue := rfl
@[simp] theorem State.withCw_cw (s : State) (x : Word) : (s.withCw x).cw = x := rfl
@[simp] theorem State.withCw_phase (s : State) (x : Word) : (s.withCw x).phase = s.phase := rfl
@[simp] theorem State.withCw_outBri (s : State) (x : Word) : (s.withCw x).outBri = s.outBri := rfl
@[simp] theorem State.withCw_outPwr (s : State) (x : Word) : (s.withCw x).outPwr = s.outPwr := rfl
@[simp] theorem State.withCw_outR (s : State) (x : Word) : (s.withCw x).outR = s.outR := rfl
@[simp] theorem State.withCw_outG (s : State) (x : Word) : (s.withCw x).outG = s.outG := rfl
@[simp] theorem State.withCw_outB (s : State) (x : Word) : (s.withCw x).outB = s.outB := rfl

/-! `withPhase` -/

@[simp] theorem State.withPhase_cfg (s : State) (x : BitVec 4) : (s.withPhase x).cfg = s.cfg := rfl
@[simp] theorem State.withPhase_sched (s : State) (x : BitVec 4) : (s.withPhase x).sched = s.sched := rfl
@[simp] theorem State.withPhase_T (s : State) (x : BitVec 4) : (s.withPhase x).T = s.T := rfl
@[simp] theorem State.withPhase_sig (s : State) (x : BitVec 4) : (s.withPhase x).sig = s.sig := rfl
@[simp] theorem State.withPhase_est (s : State) (x : BitVec 4) : (s.withPhase x).est = s.est := rfl
@[simp] theorem State.withPhase_lw (s : State) (x : BitVec 4) : (s.withPhase x).lw = s.lw := rfl
@[simp] theorem State.withPhase_upd (s : State) (x : BitVec 4) : (s.withPhase x).upd = s.upd := rfl
@[simp] theorem State.withPhase_ll (s : State) (x : BitVec 4) : (s.withPhase x).ll = s.ll := rfl
@[simp] theorem State.withPhase_bri (s : State) (x : BitVec 4) : (s.withPhase x).bri = s.bri := rfl
@[simp] theorem State.withPhase_pwr (s : State) (x : BitVec 4) : (s.withPhase x).pwr = s.pwr := rfl
@[simp] theorem State.withPhase_hue (s : State) (x : BitVec 4) : (s.withPhase x).hue = s.hue := rfl
@[simp] theorem State.withPhase_cw (s : State) (x : BitVec 4) : (s.withPhase x).cw = s.cw := rfl
@[simp] theorem State.withPhase_phase (s : State) (x : BitVec 4) : (s.withPhase x).phase = x := rfl
@[simp] theorem State.withPhase_outBri (s : State) (x : BitVec 4) : (s.withPhase x).outBri = s.outBri := rfl
@[simp] theorem State.withPhase_outPwr (s : State) (x : BitVec 4) : (s.withPhase x).outPwr = s.outPwr := rfl
@[simp] theorem State.withPhase_outR (s : State) (x : BitVec 4) : (s.withPhase x).outR = s.outR := rfl
@[simp] theorem State.withPhase_outG (s : State) (x : BitVec 4) : (s.withPhase x).outG = s.outG := rfl
@[simp] theorem State.withPhase_outB (s : State) (x : BitVec 4) : (s.withPhase x).outB = s.outB := rfl

/-! `withOutBri` -/

@[simp] theorem State.withOutBri_cfg (s : State) (x : Byte) : (s.withOutBri x).cfg = s.cfg := rfl
@[simp] theorem State.withOutBri_sched (s : State) (x : Byte) : (s.withOutBri x).sched = s.sched := rfl
@[simp] theorem State.withOutBri_T (s : State) (x : Byte) : (s.withOutBri x).T = s.T := rfl
@[simp] theorem State.withOutBri_sig (s : State) (x : Byte) : (s.withOutBri x).sig = s.sig := rfl
@[simp] theorem State.withOutBri_est (s : State) (x : Byte) : (s.withOutBri x).est = s.est := rfl
@[simp] theorem State.withOutBri_lw (s : State) (x : Byte) : (s.withOutBri x).lw = s.lw := rfl
@[simp] theorem State.withOutBri_upd (s : State) (x : Byte) : (s.withOutBri x).upd = s.upd := rfl
@[simp] theorem State.withOutBri_ll (s : State) (x : Byte) : (s.withOutBri x).ll = s.ll := rfl
@[simp] theorem State.withOutBri_bri (s : State) (x : Byte) : (s.withOutBri x).bri = s.bri := rfl
@[simp] theorem State.withOutBri_pwr (s : State) (x : Byte) : (s.withOutBri x).pwr = s.pwr := rfl
@[simp] theorem State.withOutBri_hue (s : State) (x : Byte) : (s.withOutBri x).hue = s.hue := rfl
@[simp] theorem State.withOutBri_cw (s : State) (x : Byte) : (s.withOutBri x).cw = s.cw := rfl
@[simp] theorem State.withOutBri_phase (s : State) (x : Byte) : (s.withOutBri x).phase = s.phase := rfl
@[simp] theorem State.withOutBri_outBri (s : State) (x : Byte) : (s.withOutBri x).outBri = x := rfl
@[simp] theorem State.withOutBri_outPwr (s : State) (x : Byte) : (s.withOutBri x).outPwr = s.outPwr := rfl
@[simp] theorem State.withOutBri_outR (s : State) (x : Byte) : (s.withOutBri x).outR = s.outR := rfl
@[simp] theorem State.withOutBri_outG (s : State) (x : Byte) : (s.withOutBri x).outG = s.outG := rfl
@[simp] theorem State.withOutBri_outB (s : State) (x : Byte) : (s.withOutBri x).outB = s.outB := rfl

/-! `withOutPwr` -/

@[simp] theorem State.withOutPwr_cfg (s : State) (x : Bool) : (s.withOutPwr x).cfg = s.cfg := rfl
@[simp] theorem State.withOutPwr_sched (s : State) (x : Bool) : (s.withOutPwr x).sched = s.sched := rfl
@[simp] theorem State.withOutPwr_T (s : State) (x : Bool) : (s.withOutPwr x).T = s.T := rfl
@[simp] theorem State.withOutPwr_sig (s : State) (x : Bool) : (s.withOutPwr x).sig = s.sig := rfl
@[simp] theorem State.withOutPwr_est (s : State) (x : Bool) : (s.withOutPwr x).est = s.est := rfl
@[simp] theorem State.withOutPwr_lw (s : State) (x : Bool) : (s.withOutPwr x).lw = s.lw := rfl
@[simp] theorem State.withOutPwr_upd (s : State) (x : Bool) : (s.withOutPwr x).upd = s.upd := rfl
@[simp] theorem State.withOutPwr_ll (s : State) (x : Bool) : (s.withOutPwr x).ll = s.ll := rfl
@[simp] theorem State.withOutPwr_bri (s : State) (x : Bool) : (s.withOutPwr x).bri = s.bri := rfl
@[simp] theorem State.withOutPwr_pwr (s : State) (x : Bool) : (s.withOutPwr x).pwr = s.pwr := rfl
@[simp] theorem State.withOutPwr_hue (s : State) (x : Bool) : (s.withOutPwr x).hue = s.hue := rfl
@[simp] theorem State.withOutPwr_cw (s : State) (x : Bool) : (s.withOutPwr x).cw = s.cw := rfl
@[simp] theorem State.withOutPwr_phase (s : State) (x : Bool) : (s.withOutPwr x).phase = s.phase := rfl
@[simp] theorem State.withOutPwr_outBri (s : State) (x : Bool) : (s.withOutPwr x).outBri = s.outBri := rfl
@[simp] theorem State.withOutPwr_outPwr (s : State) (x : Bool) : (s.withOutPwr x).outPwr = x := rfl
@[simp] theorem State.withOutPwr_outR (s : State) (x : Bool) : (s.withOutPwr x).outR = s.outR := rfl
@[simp] theorem State.withOutPwr_outG (s : State) (x : Bool) : (s.withOutPwr x).outG = s.outG := rfl
@[simp] theorem State.withOutPwr_outB (s : State) (x : Bool) : (s.withOutPwr x).outB = s.outB := rfl

/-! `withOutRgb` -/

@[simp] theorem State.withOutRgb_cfg (s : State) (x : Rgb) : (s.withOutRgb x).cfg = s.cfg := rfl
@[simp] theorem State.withOutRgb_sched (s : State) (x : Rgb) : (s.withOutRgb x).sched = s.sched := rfl
@[simp] theorem State.withOutRgb_T (s : State) (x : Rgb) : (s.withOutRgb x).T = s.T := rfl
@[simp] theorem State.withOutRgb_sig (s : State) (x : Rgb) : (s.withOutRgb x).sig = s.sig := rfl
@[simp] theorem State.withOutRgb_est (s : State) (x : Rgb) : (s.withOutRgb x).est = s.est := rfl
@[simp] theorem State.withOutRgb_lw (s : State) (x : Rgb) : (s.withOutRgb x).lw = s.lw := rfl
@[simp] theorem State.withOutRgb_upd (s : State) (x : Rgb) : (s.withOutRgb x).upd = s.upd := rfl
@[simp] theorem State.withOutRgb_ll (s : State) (x : Rgb) : (s.withOutRgb x).ll = s.ll := rfl
@[simp] theorem State.withOutRgb_bri (s : State) (x : Rgb) : (s.withOutRgb x).bri = s.bri := rfl
@[simp] theorem State.withOutRgb_pwr (s : State) (x : Rgb) : (s.withOutRgb x).pwr = s.pwr := rfl
@[simp] theorem State.withOutRgb_hue (s : State) (x : Rgb) : (s.withOutRgb x).hue = s.hue := rfl
@[simp] theorem State.withOutRgb_cw (s : State) (x : Rgb) : (s.withOutRgb x).cw = s.cw := rfl
@[simp] theorem State.withOutRgb_phase (s : State) (x : Rgb) : (s.withOutRgb x).phase = s.phase := rfl
@[simp] theorem State.withOutRgb_outBri (s : State) (x : Rgb) : (s.withOutRgb x).outBri = s.outBri := rfl
@[simp] theorem State.withOutRgb_outPwr (s : State) (x : Rgb) : (s.withOutRgb x).outPwr = s.outPwr := rfl
@[simp] theorem State.withOutRgb_outR (s : State) (x : Rgb) : (s.withOutRgb x).outR = x.r := rfl
@[simp] theorem State.withOutRgb_outG (s : State) (x : Rgb) : (s.withOutRgb x).outG = x.g := rfl
@[simp] theorem State.withOutRgb_outB (s : State) (x : Rgb) : (s.withOutRgb x).outB = x.b := rfl

/-! The state after power-on. -/

@[simp] theorem State.powerOn_cfg (p : Params) (l : List Event) (T : Word) (g : PerChan Bool) :
    (State.powerOn p l T g).cfg = p := rfl
@[simp] theorem State.powerOn_sched (p : Params) (l : List Event) (T : Word) (g : PerChan Bool) :
    (State.powerOn p l T g).sched = l := rfl
@[simp] theorem State.powerOn_T (p : Params) (l : List Event) (T : Word) (g : PerChan Bool) :
    (State.powerOn p l T g).T = T := rfl
@[simp] theorem State.powerOn_sig (p : Params) (l : List Event) (T : Word) (g : PerChan Bool) :
    (State.powerOn p l T g).sig = g := rfl
@[simp] theorem State.powerOn_est (p : Params) (l : List Event) (T : Word) (g : PerChan Bool) :
    (State.powerOn p l T g).est = ⟨0, 0, 0⟩ := rfl
@[simp] theorem State.powerOn_lw (p : Params) (l : List Event) (T : Word) (g : PerChan Bool) :
    (State.powerOn p l T g).lw = ⟨0, 0, 0⟩ := rfl
@[simp] theorem State.powerOn_upd (p : Params) (l : List Event) (T : Word) (g : PerChan Bool) :
    (State.powerOn p l T g).upd = ⟨false, false, false⟩ := rfl
@[simp] theorem State.powerOn_ll (p : Params) (l : List Event) (T : Word) (g : PerChan Bool) :
    (State.powerOn p l T g).ll = false := rfl
@[simp] theorem State.powerOn_bri (p : Params) (l : List Event) (T : Word) (g : PerChan Bool) :
    (State.powerOn p l T g).bri = p.resetBri := rfl
@[simp] theorem State.powerOn_pwr (p : Params) (l : List Event) (T : Word) (g : PerChan Bool) :
    (State.powerOn p l T g).pwr = p.resetPwr := rfl
@[simp] theorem State.powerOn_hue (p : Params) (l : List Event) (T : Word) (g : PerChan Bool) :
    (State.powerOn p l T g).hue = p.resetHue := rfl
@[simp] theorem State.powerOn_cw (p : Params) (l : List Event) (T : Word) (g : PerChan Bool) :
    (State.powerOn p l T g).cw = 0 := rfl
@[simp] theorem State.powerOn_phase (p : Params) (l : List Event) (T : Word) (g : PerChan Bool) :
    (State.powerOn p l T g).phase = 0 := rfl
@[simp] theorem State.powerOn_outBri (p : Params) (l : List Event) (T : Word) (g : PerChan Bool) :
    (State.powerOn p l T g).outBri = 0 := rfl
@[simp] theorem State.powerOn_outPwr (p : Params) (l : List Event) (T : Word) (g : PerChan Bool) :
    (State.powerOn p l T g).outPwr = false := rfl
@[simp] theorem State.powerOn_outR (p : Params) (l : List Event) (T : Word) (g : PerChan Bool) :
    (State.powerOn p l T g).outR = 0 := rfl
@[simp] theorem State.powerOn_outG (p : Params) (l : List Event) (T : Word) (g : PerChan Bool) :
    (State.powerOn p l T g).outG = 0 := rfl
@[simp] theorem State.powerOn_outB (p : Params) (l : List Event) (T : Word) (g : PerChan Bool) :
    (State.powerOn p l T g).outB = 0 := rfl

end Machine

end Sys2Proof
end

