-- ==== Sys2Proof/Laws/Ops.lean ====
section
/-! SUPPORT. One lemma per shared operation: the ROM, the entry of the two contexts, the capture step, the clock
reading, the sequencer's moves, fetching a word, and what one step can be. -/

namespace Sys2Proof.Machine

/-- A main operation that answers a next state stood at `ROM[phase]` and had its effect. -/
theorem mainOp_next_iff {i : Instr} {k : State → State} {s t : State} :
    mainOp i k s = .next t ↔ romWord s.phase = some (encode i) ∧ t = k s := by
  unfold mainOp
  cases h : romWord s.phase with
  | none => simp
  | some w =>
    by_cases hw : w = encode i
    · simp [hw, eq_comm]
    · simp [hw]

/-- A main operation that stands at `ROM[phase]` completes. -/
theorem mainOp_at_rom {i : Instr} {k : State → State} {s : State} (h : romWord s.phase = some (encode i)) :
    mainOp i k s = .next (k s) :=
  mainOp_next_iff.mpr ⟨h, rfl⟩

/-- A main operation that does not stand at `ROM[phase]` is refused. -/
theorem mainOp_off_rom {i : Instr} {k : State → State} {s : State} (h : romWord s.phase ≠ some (encode i)) :
    mainOp i k s = .refused (if s.phase.toNat ≤ 12 then .notRomWord else .phaseOutsideRom) := by
  have hlen : romTable.length = 13 := rfl
  unfold mainOp
  cases hr : romWord s.phase with
  | none =>
    have : 13 ≤ s.phase.toNat := by simpa [romWord, hlen] using hr
    simp [show ¬ s.phase.toNat ≤ 12 by omega]
  | some w =>
    have hw : w ≠ encode i := fun hw => h (by rw [hr, hw])
    have : s.phase.toNat < 13 := by
      rw [romWord, List.getElem?_eq_some_iff] at hr
      exact hlen ▸ hr.1
    simp [hw, show s.phase.toNat ≤ 12 by omega]

theorem handlerOp_next_iff {k : State → State} {s t : State} : handlerOp k s = .next t ↔ t = k s := by
  simp [handlerOp, eq_comm]

/-! Where each main operation stands in the ROM (`30_encoding.md` R89). -/

theorem romWord_poll_iff (p : BitVec 4) (c : Chan) :
    romWord p = some (encode (.poll c)) ↔ p = BitVec.ofNat 4 (4 * c.val) := by
  revert p c; decide

theorem romWord_read_iff (p : BitVec 4) (c : Chan) :
    romWord p = some (encode (.read c)) ↔ p = BitVec.ofNat 4 (4 * c.val + 1) := by
  revert p c; decide

theorem romWord_clr_iff (p : BitVec 4) (c : Chan) :
    romWord p = some (encode (.clr c)) ↔ p = BitVec.ofNat 4 (4 * c.val + 2) := by
  revert p c; decide

theorem romWord_ibrt_iff (p : BitVec 4) : romWord p = some (encode .ibrt) ↔ p = 3 := by revert p; decide

theorem romWord_ipwr_iff (p : BitVec 4) : romWord p = some (encode .ipwr) ↔ p = 7 := by revert p; decide

theorem romWord_ihue_iff (p : BitVec 4) : romWord p = some (encode .ihue) ↔ p = 11 := by revert p; decide

theorem romWord_rgb_iff (p : BitVec 4) : romWord p = some (encode .rgb) ↔ p = 12 := by revert p; decide

/-! The sequencer's moves within channel c's group of the ROM. -/

theorem phase_poll_succ (c : Chan) : BitVec.ofNat 4 (4 * c.val) + 1 = BitVec.ofNat 4 (4 * c.val + 1) := by
  revert c; decide

theorem phase_poll_skip (c : Chan) : BitVec.ofNat 4 (4 * c.val) + 4 = BitVec.ofNat 4 (4 * c.val + 4) := by
  revert c; decide

theorem phase_read_succ (c : Chan) : BitVec.ofNat 4 (4 * c.val + 1) + 1 = BitVec.ofNat 4 (4 * c.val + 2) := by
  revert c; decide

theorem phase_clr_succ (c : Chan) : BitVec.ofNat 4 (4 * c.val + 2) + 1 = BitVec.ofNat 4 (4 * c.val + 3) := by
  revert c; decide

/-- Every word of the ROM is a main operation's. -/
theorem romWord_cases {p : BitVec 4} {w : Byte} (h : romWord p = some w) :
    ∃ i : Instr, i.context = .main ∧ w = encode i := by
  revert h; revert w
  have key : ∀ p : BitVec 4, romWord p = none ∨ (∃ c, romWord p = some (encode (.poll c))) ∨
      (∃ c, romWord p = some (encode (.read c))) ∨ (∃ c, romWord p = some (encode (.clr c))) ∨
      romWord p = some (encode .ibrt) ∨ romWord p = some (encode .ipwr) ∨ romWord p = some (encode .ihue) ∨
      romWord p = some (encode .rgb) := by decide
  intro w h
  obtain h0 | ⟨c, h0⟩ | ⟨c, h0⟩ | ⟨c, h0⟩ | h0 | h0 | h0 | h0 := key p <;> rw [h] at h0 <;>
    simp only [Option.some.injEq, reduceCtorEq] at h0
  · exact ⟨.poll c, rfl, h0⟩
  · exact ⟨.read c, rfl, h0⟩
  · exact ⟨.clr c, rfl, h0⟩
  · exact ⟨.ibrt, rfl, h0⟩
  · exact ⟨.ipwr, rfl, h0⟩
  · exact ⟨.ihue, rfl, h0⟩
  · exact ⟨.rgb, rfl, h0⟩

/-! The capture step. -/

/-- Rising: only the start time changes. -/
theorem captureChannel_high {c : Chan} {s : State} (h : s.sig.get c = true) :
    captureChannel c s = s.withEst c s.now := by
  simp [captureChannel, capture, h, State.withLw, State.withUpd, State.withEst]

/-- Falling: only the width and the flag change. -/
theorem captureChannel_low {c : Chan} {s : State} (h : s.sig.get c = false) :
    captureChannel c s = (s.withLw c (s.now - s.est.get c)).withUpd c true := by
  simp [captureChannel, capture, h, State.withLw, State.withUpd, State.withEst]

/-- The change-only handler on a level it remembers. -/
theorem captureIfChanged_same {c : Chan} {s : State} (h : s.sig.get c = s.ll) : captureIfChanged c s = s := by
  simp [captureIfChanged, h]

theorem captureIfChanged_rising {c : Chan} {s : State} (h : s.sig.get c = true) (hl : s.ll = false) :
    captureIfChanged c s = (s.withLl true).withEst c s.now := by
  have : captureChannel c (s.withLl true) = (s.withLl true).withEst c s.now :=
    captureChannel_high (s := s.withLl true) h
  simp [captureIfChanged, h, hl, this]

theorem captureIfChanged_falling {c : Chan} {s : State} (h : s.sig.get c = false) (hl : s.ll = true) :
    captureIfChanged c s = ((s.withLl false).withLw c (s.now - s.est.get c)).withUpd c true := by
  have : captureChannel c (s.withLl false) = ((s.withLl false).withLw c (s.now - s.est.get c)).withUpd c true :=
    captureChannel_low (s := s.withLl false) h
  simp [captureIfChanged, h, hl, this]

/-- With a granularity of 1 the reading is the time. -/
@[simp] theorem clockReading_one (T : Word) : clockReading 1 T = T := by simp [clockReading, Nat.mod_one]

/-- A reading is the time less its remainder. -/
theorem clockReading_toNat (tick : Nat) (T : Word) : (clockReading tick T).toNat = T.toNat - T.toNat % tick := by
  have h : T.toNat % tick ≤ T.toNat := Nat.mod_le _ _
  have h1 : T.toNat < 2 ^ 32 := T.isLt
  simp only [clockReading, BitVec.toNat_sub, BitVec.toNat_ofNat]
  omega

/-! Fetching. -/

theorem runWord_ok {w : Byte} {s : State} {i : Instr} (h : decode s.cfg w = .ok i) : runWord w s = exec i s := by
  simp [runWord, h]

theorem mainTurn_rom {w : Byte} {s : State} (h : romWord s.phase = some w) : mainTurn s = runWord w s := by
  simp [mainTurn, h]

theorem step_scheduled {e : Event} {rest : List Event} {s : State} (h : s.sched = e :: rest) :
    step s = act e (s.withSched rest) := by
  simp [step, h]

theorem step_unscheduled {s : State} (h : s.sched = []) : step s = mainTurn s := by simp [step, h]

end Sys2Proof.Machine
end

