-- ==== Sys2Proof/Laws/Exec.lean ====
section
/-! SUPPORT. One inversion lemma per operation: when it answers a next state, and which. -/

namespace Sys2Proof.Machine

theorem exec_edge_next_iff {c : Chan} {s t : State} :
    exec (.edge c) s = .next t ↔ c ≠ s.cfg.chgCh ∧ t = captureChannel c s := by
  by_cases h : c = s.cfg.chgCh <;> simp [exec, execEdge, Params.mode, h, handlerOp, eq_comm]

theorem exec_edge_reserved {c : Chan} {s : State} (h : c = s.cfg.chgCh) :
    exec (.edge c) s = .refused .edgeOnChangeOnly := by
  simp [exec, execEdge, Params.mode, h]

theorem exec_chg_next_iff {s t : State} : exec .chg s = .next t ↔ t = captureIfChanged s.cfg.chgCh s :=
  handlerOp_next_iff

theorem exec_poll_next_iff {c : Chan} {s t : State} : exec (.poll c) s = .next t ↔
    s.phase = BitVec.ofNat 4 (4 * c.val) ∧ t = s.withPhase (s.phase + if s.upd.get c then 1 else 4) := by
  simp only [exec, execPoll, mainOp_next_iff, romWord_poll_iff, flagSet, advance]
  by_cases hu : s.upd.get c = true <;> simp [hu]

theorem exec_read_next_iff {c : Chan} {s t : State} : exec (.read c) s = .next t ↔
    s.phase = BitVec.ofNat 4 (4 * c.val + 1) ∧ t = (s.withCw (s.lw.get c)).withPhase (s.phase + 1) := by
  simp only [exec, execRead, mainOp_next_iff, romWord_read_iff]
  rfl

theorem exec_clr_next_iff {c : Chan} {s t : State} : exec (.clr c) s = .next t ↔
    s.phase = BitVec.ofNat 4 (4 * c.val + 2) ∧ t = (s.withUpd c false).withPhase (s.phase + 1) := by
  simp only [exec, execClr, mainOp_next_iff, romWord_clr_iff]
  rfl

theorem exec_ibrt_next_iff {s t : State} : exec .ibrt s = .next t ↔ s.phase = 3 ∧
    t = ((s.withBri (brightness s.cw.toNat)).withOutBri (brightness s.cw.toNat)).withPhase (s.phase + 1) := by
  simp only [exec, execIbrt, mainOp_next_iff, romWord_ibrt_iff]
  rfl

theorem exec_ipwr_next_iff {s t : State} : exec .ipwr s = .next t ↔ s.phase = 7 ∧
    t = ((s.withPwr (powerOf s.cw.toNat)).withOutPwr (powerLevel (powerOf s.cw.toNat) s.outPwr)).withPhase
      (s.phase + 1) := by
  simp only [exec, execIpwr, mainOp_next_iff, romWord_ipwr_iff]
  rfl

theorem exec_ihue_next_iff {s t : State} : exec .ihue s = .next t ↔ s.phase = 11 ∧
    t = (s.withHue ((hueOf s.cw.toNat).getD s.hue)).withPhase (s.phase + 1) := by
  simp only [exec, execIhue, mainOp_next_iff, romWord_ihue_iff]
  rfl

theorem exec_rgb_next_iff {s t : State} : exec .rgb s = .next t ↔ s.phase = 12 ∧
    t = (s.withOutRgb (hueToRGB s.hue)).withPhase 0 := by
  simp only [exec, execRgb, mainOp_next_iff, romWord_rgb_iff]

/-- A main operation that is not the one at `ROM[phase]` is refused. -/
theorem exec_off_rom {i : Instr} {s : State} (hi : i.context = .main) (h : romWord s.phase ≠ some (encode i)) :
    exec i s = .refused (if s.phase.toNat ≤ 12 then .notRomWord else .phaseOutsideRom) := by
  cases i with
  | edge c => cases hi
  | chg => cases hi
  | poll c => simp only [exec, execPoll, mainOp_off_rom h]
  | read c => simp only [exec, execRead, mainOp_off_rom h]
  | clr c => simp only [exec, execClr, mainOp_off_rom h]
  | ibrt => simp only [exec, execIbrt, mainOp_off_rom h]
  | ipwr => simp only [exec, execIpwr, mainOp_off_rom h]
  | ihue => simp only [exec, execIhue, mainOp_off_rom h]
  | rgb => simp only [exec, execRgb, mainOp_off_rom h]

/-- No operation writes the instance, the schedule, the clock or an input level. -/
theorem exec_keeps_inputs {i : Instr} {s t : State} (h : exec i s = .next t) :
    t.cfg = s.cfg ∧ t.sched = s.sched ∧ t.T = s.T ∧ t.sig = s.sig := by
  cases i with
  | edge c => obtain ⟨-, rfl⟩ := exec_edge_next_iff.mp h; simp [captureChannel]
  | chg =>
    obtain rfl := exec_chg_next_iff.mp h
    unfold captureIfChanged
    split <;> simp [captureChannel]
  | poll c => obtain ⟨-, rfl⟩ := exec_poll_next_iff.mp h; simp
  | read c => obtain ⟨-, rfl⟩ := exec_read_next_iff.mp h; simp
  | clr c => obtain ⟨-, rfl⟩ := exec_clr_next_iff.mp h; simp
  | ibrt => obtain ⟨-, rfl⟩ := exec_ibrt_next_iff.mp h; simp
  | ipwr => obtain ⟨-, rfl⟩ := exec_ipwr_next_iff.mp h; simp
  | ihue => obtain ⟨-, rfl⟩ := exec_ihue_next_iff.mp h; simp
  | rgb => obtain ⟨-, rfl⟩ := exec_rgb_next_iff.mp h; simp

end Sys2Proof.Machine
end

