-- ==== Sys2Proof/Laws/Interpret.lean ====
section
/-! SUPPORT. The policies and the colour converter, by their cases. -/

namespace Sys2Proof.Machine

theorem inRange_iff (w : Nat) : inRange w = true ↔ 1000 ≤ w ∧ w ≤ 2000 := by
  simp only [inRange, Bool.and_eq_true, decide_eq_true_eq]
  exact Iff.rfl

theorem inRange_false_iff (w : Nat) : inRange w = false ↔ w < 1000 ∨ 2000 < w := by
  rw [← Bool.not_eq_true, inRange_iff]
  omega

theorem brightness_valid {w : Nat} (h : 1000 ≤ w ∧ w ≤ 2000) :
    brightness w = BitVec.ofNat 8 ((w - 1000) * 255 / 1000) := by
  simp [brightness, (inRange_iff w).mpr h, linmap, W_MIN, W_MAX, BRI_MAX]

theorem brightness_invalid {w : Nat} (h : w < 1000 ∨ 2000 < w) : brightness w = 0 := by
  simp [brightness, (inRange_false_iff w).mpr h]

theorem hueOf_valid {w : Nat} (h : 1000 ≤ w ∧ w ≤ 2000) :
    hueOf w = some (BitVec.ofNat 9 ((w - 1000) * 360 / 1000)) := by
  simp [hueOf, (inRange_iff w).mpr h, linmap, W_MIN, W_MAX, HUE_MAX]

theorem hueOf_invalid {w : Nat} (h : w < 1000 ∨ 2000 < w) : hueOf w = none := by
  simp [hueOf, (inRange_false_iff w).mpr h]

/-- The hue policy never gives more than 360. -/
theorem hueOf_le {w : Nat} {h : BitVec 9} (hw : hueOf w = some h) : h.toNat ≤ 360 := by
  by_cases hv : 1000 ≤ w ∧ w ≤ 2000
  · rw [hueOf_valid hv] at hw
    cases hw
    simp only [BitVec.toNat_ofNat]
    rw [Nat.mod_eq_of_lt (by omega)]
    omega
  · rw [hueOf_invalid (by omega)] at hw
    cases hw

theorem powerOf_on {w : Nat} (h : 1500 ≤ w) : powerOf w = .on := by simp [powerOf, P_ON, h]

theorem powerOf_off {w : Nat} (h : 500 < w) (h' : w < 1500) : powerOf w = .off := by
  simp [powerOf, P_ON, P_NOSIG, h, Nat.not_le.mpr h']

theorem powerOf_noSignal {w : Nat} (h : w ≤ 500) : powerOf w = .noSignal := by
  simp [powerOf, P_ON, P_NOSIG, Nat.not_lt.mpr h, show ¬ 1500 ≤ w by omega]

@[simp] theorem powerLevel_on (b : Bool) : powerLevel .on b = true := rfl
@[simp] theorem powerLevel_off (b : Bool) : powerLevel .off b = false := rfl
@[simp] theorem powerLevel_noSignal (b : Bool) : powerLevel .noSignal b = b := rfl

theorem levelF_toNat {m : Nat} (h : m < 60) : (levelF m).toNat = m * 255 / 60 := by
  simp only [levelF, OUT_MAX, SECTOR, BitVec.toNat_ofNat]
  omega

theorem levelQ_toNat {m : Nat} (h : m < 60) : (levelQ m).toNat = (60 - m) * 255 / 60 := by
  simp only [levelQ, OUT_MAX, SECTOR, BitVec.toNat_ofNat]
  omega

end Sys2Proof.Machine
end

