-- ==== Sys2Proof/Laws/PerInstr.lean ====
section
/-! SUPPORT. Per operation: its word has the fixed fields of its row of the table, `z` = 0 and a channel below 3
(`30_encoding.md` R80, R83), and an operation of the instance is decoded back from its word. -/

namespace Sys2Proof.Laws.WordForm

/-- The `opc` of an operation (`30_encoding.md` R83). -/
def opcOf : Instr → Nat
  | .edge _ => 1
  | .chg => 2
  | .poll _ => 4
  | .read _ => 5
  | .clr _ => 6
  | .ibrt => 7
  | .ipwr => 7
  | .ihue => 7
  | .rgb => 8

def Statement (i : Instr) : Prop :=
  opcField (encode i) = opcOf i ∧ zField (encode i) = 0 ∧ chField (encode i) < 3

theorem edge (c : Chan) : Statement (.edge c) := by revert c; unfold Statement; decide
theorem chg : Statement .chg := by unfold Statement; decide
theorem poll (c : Chan) : Statement (.poll c) := by revert c; unfold Statement; decide
theorem read (c : Chan) : Statement (.read c) := by revert c; unfold Statement; decide
theorem clr (c : Chan) : Statement (.clr c) := by revert c; unfold Statement; decide
theorem ibrt : Statement .ibrt := by unfold Statement; decide
theorem ipwr : Statement .ipwr := by unfold Statement; decide
theorem ihue : Statement .ihue := by unfold Statement; decide
theorem rgb : Statement .rgb := by unfold Statement; decide

end Sys2Proof.Laws.WordForm

namespace Sys2Proof.Laws.RoundTrip

def Statement (i : Instr) : Prop := ∀ p : Params, i.wf p = true → decode p (encode i) = .ok i

theorem edge (c : Chan) : Statement (.edge c) := by
  intro p h
  have hm : p.mode c = .dual := by simpa [Instr.wf] using h
  fin_cases c <;>
    simp_all [decode, encode, op8, zField, chField, opcField, chanOf]
theorem chg : Statement .chg := fun _ _ => rfl
theorem poll (c : Chan) : Statement (.poll c) := by intro p _; fin_cases c <;> rfl
theorem read (c : Chan) : Statement (.read c) := by intro p _; fin_cases c <;> rfl
theorem clr (c : Chan) : Statement (.clr c) := by intro p _; fin_cases c <;> rfl
theorem ibrt : Statement .ibrt := fun _ _ => rfl
theorem ipwr : Statement .ipwr := fun _ _ => rfl
theorem ihue : Statement .ihue := fun _ _ => rfl
theorem rgb : Statement .rgb := fun _ _ => rfl

end Sys2Proof.Laws.RoundTrip
end

