-- ==== Sys2Proof/Laws/Trace.lean ====
section
/-! SUPPORT. What a notification, a turn of the main context and a trace do, said once. -/

namespace Sys2Proof.Machine

theorem mode_dual {p : Params} {c : Chan} (h : p.mode c = .dual) : c ≠ p.chgCh := by
  intro e
  simp [Params.mode, e] at h

theorem mode_change {p : Params} {c : Chan} (h : p.mode c = .change) : c = p.chgCh := by
  by_contra e
  simp [Params.mode, e] at h

/-- The handler word of a channel is one of the instance's. -/
theorem decode_handlerOf (p : Params) (c : Chan) : decode p (encode (handlerOf p c)) = .ok (handlerOf p c) := by
  unfold handlerOf
  cases h : p.mode c with
  | dual => exact Laws.RoundTrip.edge c p (by simp [Instr.wf, h])
  | change => exact Laws.RoundTrip.chg p rfl

/-- What the handler of channel c does. -/
def handlerEffect (c : Chan) (s : State) : State :=
  match s.cfg.mode c with
  | .dual => captureChannel c s
  | .change => captureIfChanged c s

/-- The handler of a channel always completes. -/
theorem exec_handlerOf (c : Chan) (s : State) : exec (handlerOf s.cfg c) s = .next (handlerEffect c s) := by
  unfold handlerOf handlerEffect
  cases h : s.cfg.mode c with
  | dual => exact exec_edge_next_iff.mpr ⟨mode_dual h, rfl⟩
  | change => exact exec_chg_next_iff.mpr (by rw [mode_change h])

theorem act_notify (c : Chan) (s : State) : act (notify s.cfg c) s = .next (handlerEffect c s) :=
  (runWord_ok (decode_handlerOf s.cfg c)).trans (exec_handlerOf c s)

theorem runTrace_cons_next {e : Event} {es : List Event} {s t : State} (h : act e s = .next t) :
    runTrace (e :: es) s = runTrace es t := by
  simp [runTrace, h]

/-- A turn of the main context at a word of the ROM is that operation's meaning. -/
theorem mainTurn_of_rom {i : Instr} {s : State} (hi : i.context = .main) (h : romWord s.phase = some (encode i)) :
    mainTurn s = exec i s := by
  have hd : decode s.cfg (encode i) = .ok i := by
    cases i with
    | edge c => cases hi
    | chg => cases hi
    | poll c => exact Laws.RoundTrip.poll c _ rfl
    | read c => exact Laws.RoundTrip.read c _ rfl
    | clr c => exact Laws.RoundTrip.clr c _ rfl
    | ibrt => rfl
    | ipwr => rfl
    | ihue => rfl
    | rgb => rfl
  rw [mainTurn_rom h, runWord_ok hd]

theorem mainTurn_poll {c : Chan} {s : State} (h : s.phase = BitVec.ofNat 4 (4 * c.val)) :
    mainTurn s = .next (s.withPhase (s.phase + if s.upd.get c then 1 else 4)) := by
  rw [mainTurn_of_rom (i := .poll c) rfl ((romWord_poll_iff _ _).mpr h)]
  exact exec_poll_next_iff.mpr ⟨h, rfl⟩

theorem mainTurn_read {c : Chan} {s : State} (h : s.phase = BitVec.ofNat 4 (4 * c.val + 1)) :
    mainTurn s = .next ((s.withCw (s.lw.get c)).withPhase (s.phase + 1)) := by
  rw [mainTurn_of_rom (i := .read c) rfl ((romWord_read_iff _ _).mpr h)]
  exact exec_read_next_iff.mpr ⟨h, rfl⟩

theorem mainTurn_clr {c : Chan} {s : State} (h : s.phase = BitVec.ofNat 4 (4 * c.val + 2)) :
    mainTurn s = .next ((s.withUpd c false).withPhase (s.phase + 1)) := by
  rw [mainTurn_of_rom (i := .clr c) rfl ((romWord_clr_iff _ _).mpr h)]
  exact exec_clr_next_iff.mpr ⟨h, rfl⟩

theorem mainTurn_ibrt {s : State} (h : s.phase = 3) : mainTurn s =
    .next (((s.withBri (brightness s.cw.toNat)).withOutBri (brightness s.cw.toNat)).withPhase (s.phase + 1)) := by
  rw [mainTurn_of_rom (i := .ibrt) rfl ((romWord_ibrt_iff _).mpr h)]
  exact exec_ibrt_next_iff.mpr ⟨h, rfl⟩

theorem mainTurn_ipwr {s : State} (h : s.phase = 7) : mainTurn s =
    .next (((s.withPwr (powerOf s.cw.toNat)).withOutPwr (powerLevel (powerOf s.cw.toNat) s.outPwr)).withPhase
      (s.phase + 1)) := by
  rw [mainTurn_of_rom (i := .ipwr) rfl ((romWord_ipwr_iff _).mpr h)]
  exact exec_ipwr_next_iff.mpr ⟨h, rfl⟩

theorem mainTurn_ihue {s : State} (h : s.phase = 11) : mainTurn s =
    .next ((s.withHue ((hueOf s.cw.toNat).getD s.hue)).withPhase (s.phase + 1)) := by
  rw [mainTurn_of_rom (i := .ihue) rfl ((romWord_ihue_iff _).mpr h)]
  exact exec_ihue_next_iff.mpr ⟨h, rfl⟩

theorem mainTurn_rgb {s : State} (h : s.phase = 12) : mainTurn s =
    .next ((s.withOutRgb (hueToRGB s.hue)).withPhase 0) := by
  rw [mainTurn_of_rom (i := .rgb) rfl ((romWord_rgb_iff _).mpr h)]
  exact exec_rgb_next_iff.mpr ⟨h, rfl⟩

/-- Which operation a turn of the main context ran, if it answers a next state. -/
theorem mainTurn_next {s t : State} (h : mainTurn s = .next t) :
    ∃ i : Instr, i.context = .main ∧ romWord s.phase = some (encode i) ∧ exec i s = .next t := by
  cases hr : romWord s.phase with
  | none => simp [mainTurn, hr] at h
  | some w =>
    obtain ⟨i, hi, rfl⟩ := romWord_cases hr
    exact ⟨i, hi, rfl, by rw [← mainTurn_of_rom hi hr, h]⟩

/-- Everything one action can do: reset, move an input, or execute an operation. -/
theorem act_next {e : Event} {s t : State} (h : act e s = .next t) :
    (e = .rst ∧ t = resetRegisters s) ∨ (∃ T, t = s.withT T) ∨ (∃ c v, t = s.withSig c v) ∨
    ∃ i, exec i s = .next t := by
  cases e with
  | rst => exact .inl ⟨rfl, by simpa [act, eq_comm] using h⟩
  | time x => exact .inr (.inl ⟨_, by simpa [act, eq_comm] using h⟩)
  | tick d => exact .inr (.inl ⟨_, by simpa [act, eq_comm] using h⟩)
  | sig c v => exact .inr (.inr (.inl ⟨c, v, by simpa [act, eq_comm] using h⟩))
  | line w =>
    have h' : runWord w s = .next t := h
    cases hd : decode s.cfg w with
    | ok i => exact .inr (.inr (.inr ⟨i, by rw [← runWord_ok hd, h']⟩))
    | error why => simp [runWord, hd] at h'
  | main =>
    obtain ⟨i, -, -, hx⟩ := mainTurn_next (s := s) (t := t) h
    exact .inr (.inr (.inr ⟨i, hx⟩))

/-- Everything one step can do, on the state without the action it takes off the schedule. -/
theorem step_next {s t : State} (h : step s = .next t) :
    ∃ rest, ((s.sched = .rst :: rest ∧ t = resetRegisters (s.withSched rest)) ∨
      (∃ T, t = (s.withSched rest).withT T) ∨ (∃ c v, t = (s.withSched rest).withSig c v) ∨
      ∃ i, exec i (s.withSched rest) = .next t) := by
  cases hs : s.sched with
  | nil =>
    rw [step_unscheduled hs] at h
    obtain ⟨i, -, -, hx⟩ := mainTurn_next h
    have hw : s.withSched [] = s := by rw [← hs]; rfl
    exact ⟨[], .inr (.inr (.inr ⟨i, by rw [hw]; exact hx⟩))⟩
  | cons e rest =>
    rw [step_scheduled hs] at h
    refine ⟨rest, ?_⟩
    rcases act_next h with ⟨rfl, ht⟩ | h1 | h2 | h3
    · exact .inl ⟨rfl, ht⟩
    · exact .inr (.inl h1)
    · exact .inr (.inr (.inl h2))
    · exact .inr (.inr (.inr h3))

/-! The handlers' effect: on which registers, and in its two arms. -/

theorem mode_cases (p : Params) (c : Chan) : p.mode c = .dual ∨ p.mode c = .change := by
  cases p.mode c <;> simp

/-- The handler of channel c writes only that channel's registers, and the remembered level only in `CHANGE` mode. -/
theorem handlerEffect_frame (c : Chan) (s : State) : ∃ e w u l,
    handlerEffect c s = { s with est := s.est.set c e, lw := s.lw.set c w, upd := s.upd.set c u, ll := l } ∧
    (s.cfg.mode c = .dual → l = s.ll) := by
  rcases mode_cases s.cfg c with hm | hm <;> simp only [handlerEffect, hm]
  · exact ⟨_, _, _, _, rfl, fun _ => rfl⟩
  · unfold captureIfChanged
    split
    · exact ⟨s.est.get c, s.lw.get c, s.upd.get c, s.ll, by simp, by simp⟩
    · exact ⟨_, _, _, _, rfl, by simp⟩

/-- A handler that publishes writes the width and the flag. -/
theorem handlerEffect_publishes {c : Chan} {s : State} (h : publishes c s) : ∃ l,
    handlerEffect c s =
      { s with lw := s.lw.set c (s.now - s.est.get c), upd := s.upd.set c true, ll := l } := by
  obtain ⟨hs, hl⟩ := h
  rcases mode_cases s.cfg c with hm | hm <;> simp only [handlerEffect, hm]
  · exact ⟨_, captureChannel_low hs⟩
  · exact ⟨_, captureIfChanged_falling hs (hl hm)⟩

/-! The schedule: no action reads or writes it. -/

/-- A change of the next state, where there is one. -/
def mapNext (f : State → State) : Host.Outcome State Fault Refusal → Host.Outcome State Fault Refusal
  | .next s => .next (f s)
  | .fault r => .fault r
  | .refused r => .refused r

theorem mainOp_withSched {i : Instr} {k : State → State} {s : State} {l : List Event}
    (hk : k (s.withSched l) = (k s).withSched l) :
    mainOp i k (s.withSched l) = mapNext (·.withSched l) (mainOp i k s) := by
  unfold mainOp
  rw [State.withSched_phase]
  cases romWord s.phase with
  | none => rfl
  | some w =>
    by_cases hw : w = encode i
    · simp [hw, hk, mapNext]
    · simp [hw, mapNext]

theorem captureIfChanged_withSched (c : Chan) (s : State) (l : List Event) :
    captureIfChanged c (s.withSched l) = (captureIfChanged c s).withSched l := by
  by_cases h : s.sig.get c = s.ll
  · rw [captureIfChanged_same h, captureIfChanged_same (s := s.withSched l) h]
  · unfold captureIfChanged
    rw [if_neg h, if_neg (show ¬ (s.withSched l).sig.get c = (s.withSched l).ll from h)]
    rfl

theorem exec_withSched (i : Instr) (s : State) (l : List Event) :
    exec i (s.withSched l) = mapNext (·.withSched l) (exec i s) := by
  cases i with
  | edge c => cases h : s.cfg.mode c <;> simp only [exec, execEdge, State.withSched_cfg, h] <;> rfl
  | chg =>
    simp only [exec, execChg, handlerOp, State.withSched_cfg, captureIfChanged_withSched]
    rfl
  | poll c =>
    simp only [exec, execPoll]
    refine mainOp_withSched ?_
    by_cases h : s.upd.get c = true <;> simp [flagSet, h] <;> rfl
  | read c => simp only [exec, execRead]; exact mainOp_withSched rfl
  | clr c => simp only [exec, execClr]; exact mainOp_withSched rfl
  | ibrt => simp only [exec, execIbrt]; exact mainOp_withSched rfl
  | ipwr => simp only [exec, execIpwr]; exact mainOp_withSched rfl
  | ihue => simp only [exec, execIhue]; exact mainOp_withSched rfl
  | rgb => simp only [exec, execRgb]; exact mainOp_withSched rfl

theorem runWord_withSched (w : Byte) (s : State) (l : List Event) :
    runWord w (s.withSched l) = mapNext (·.withSched l) (runWord w s) := by
  unfold runWord
  rw [State.withSched_cfg]
  cases decode s.cfg w with
  | ok i => exact exec_withSched i s l
  | error why => rfl

theorem act_withSched (e : Event) (s : State) (l : List Event) :
    act e (s.withSched l) = mapNext (·.withSched l) (act e s) := by
  cases e with
  | rst => rfl
  | time t => rfl
  | tick d => rfl
  | sig c v => rfl
  | line w => exact runWord_withSched w s l
  | main =>
    simp only [act, mainTurn, State.withSched_phase]
    cases romWord s.phase with
    | none => rfl
    | some w => exact runWord_withSched w s l

theorem act_keeps_sched {e : Event} {s t : State} (h : act e s = .next t) : t.sched = s.sched := by
  rcases act_next h with ⟨-, rfl⟩ | ⟨_, rfl⟩ | ⟨_, _, rfl⟩ | ⟨i, hx⟩
  · rfl
  · rfl
  · rfl
  · exact (exec_keeps_inputs hx).2.1

/-! Running the machine. -/

theorem core_run_succ {k : Nat} {s t : State} (h : step s = .next t) :
    Sys2Proof.core.run (k + 1) s = Sys2Proof.core.run k t := by
  have hs : Sys2Proof.core.step s = .next t := h
  simp only [Host.Core.run, hs]

/-- With nothing scheduled, a step of the machine is a turn of the main context. -/
theorem core_run_main {k : Nat} {s t : State} (hs : s.sched = []) (h : mainTurn s = .next t) :
    Sys2Proof.core.run (k + 1) s = Sys2Proof.core.run k t :=
  core_run_succ ((step_unscheduled hs).trans h)

/-- A main operation's line, at its place in the ROM, is a turn of the main context. -/
theorem act_opLine_main {i : Instr} {s : State} (h : romWord s.phase = some (encode i)) :
    act (opLine i) s = mainTurn s :=
  (mainTurn_rom h).symm

end Sys2Proof.Machine
end

