-- ==== Sys2Proof/Tests/Slice0.lean ====
section
/-! SUPPORT. Tests. Words are written out from `30_encoding.md` R83, expected results are those of `95_test_vectors.md`
(the vector's id stands with each). Then a witness for the hypotheses of every statement that has some. -/

namespace Sys2Proof.Tests

open Sys2Proof.Machine

/-- A small state: reset, at the given phase, with the given clock. -/
def at_ (phase : BitVec 4) (T : Word) : State := (State.reset.withPhase phase).withT T

/-- One register after one operation. -/
def regAfter (i : Instr) (s : State) (r : Reg) : Option Nat := (nextState (exec i s)).map (·.reg r)

/-! Ill-formed terms are refused. -/

theorem test_edge_on_change_only_ill_formed : Instr.wf Params.standard (.edge 2) = false := by decide
theorem test_tick_zero_ill_formed :
    Params.wf { Params.standard with tick := 0 } = false := by decide
theorem test_reset_hue_361_ill_formed :
    Params.wf { Params.standard with resetHue := 361 } = false := by decide
theorem test_edge_well_formed_elsewhere :
    Instr.wf { Params.standard with chgCh := 0 } (.edge 2) = true := by decide

/-! Words, bit by bit (R83: `oooo cc 00`). -/

theorem test_word_edge : decode Params.standard 0b00010100 = .ok (.edge 1) := by decide
theorem test_word_chg : decode Params.standard 0b00100000 = .ok .chg := by decide
theorem test_word_poll : decode Params.standard 0b01001000 = .ok (.poll 2) := by decide
theorem test_word_read : decode Params.standard 0b01010100 = .ok (.read 1) := by decide
theorem test_word_clr : decode Params.standard 0b01101000 = .ok (.clr 2) := by decide
theorem test_word_ibrt : decode Params.standard 0b01110000 = .ok .ibrt := by decide
theorem test_word_ipwr : decode Params.standard 0b01110100 = .ok .ipwr := by decide
theorem test_word_ihue : decode Params.standard 0b01111000 = .ok .ihue := by decide
theorem test_word_rgb : decode Params.standard 0b10000000 = .ok .rgb := by decide
theorem test_word_reserved_z : decode Params.standard 0b00010001 = .error .zField := by decide
theorem test_word_reserved_channel : decode Params.standard 0b01001100 = .error .channelThree := by decide
theorem test_word_reserved_opcode : decode Params.standard 0b00110000 = .error .opcode := by decide
theorem test_word_reserved_operand : decode Params.standard 0b00100100 = .error .channelOfNone := by decide
theorem test_word_edge_change_only : decode Params.standard 0b00011000 = .error .edgeOnChangeOnly := by decide

/-! Operations (`95_test_vectors.md` sections 2.1 to 2.7). -/

/-- C5: the clock wrapped during the pulse. -/
theorem test_edge_wrap :
    regAfter (.edge 0) ((at_ 0 1244).withEst 0 0xFFFFFF00) (.lw 0) = some 1500 := by decide
/-- C4: a second rising edge re-latches the start. -/
theorem test_edge_relatch :
    regAfter (.edge 0) (((at_ 0 900).withEst 0 100).withSig 0 true) (.est 0) = some 900 := by decide
/-- G2: falling on the change-only channel. -/
theorem test_chg_falling :
    regAfter .chg (((at_ 0 6250).withEst 2 5000).withLl true) (.lw 2) = some 1250 := by decide
/-- G4: unchanged HIGH is ignored. -/
theorem test_chg_unchanged :
    regAfter .chg ((((at_ 0 5600).withEst 2 5000).withLl true).withSig 2 true) (.est 2) = some 5000 := by decide
/-- H3. -/
theorem test_poll_seen : regAfter (.poll 1) ((at_ 4 0).withUpd 1 true) .phase = some 5 := by decide
/-- H6. -/
theorem test_poll_skip : regAfter (.poll 2) (at_ 8 0) .phase = some 12 := by decide
/-- H8. -/
theorem test_read_whole : regAfter (.read 2) ((at_ 9 0).withLw 2 0xFFFFFFFF) .cw = some 0xFFFFFFFF := by decide
/-- H9. -/
theorem test_clr : regAfter (.clr 1) ((at_ 6 0).withUpd 1 true) (.upd 1) = some 0 := by decide
/-- Section 2.4. -/
theorem test_ibrt_1750 : regAfter .ibrt ((at_ 3 0).withCw 1750) .outBri = some 191 := by decide
theorem test_ibrt_2001 : regAfter .ibrt (((at_ 3 0).withCw 2001).withBri 9) .bri = some 0 := by decide
/-- Section 2.5. -/
theorem test_ipwr_1500 : regAfter .ipwr ((at_ 7 0).withCw 1500) .pwr = some 2 := by decide
theorem test_ipwr_500_holds_output :
    regAfter .ipwr (((at_ 7 0).withCw 500).withOutPwr true) .outPwr = some 1 := by decide
/-- Section 2.6. -/
theorem test_ihue_2000 : regAfter .ihue ((at_ 11 0).withCw 2000) .hue = some 360 := by decide
theorem test_ihue_999_holds : regAfter .ihue (((at_ 11 0).withCw 999).withHue 77) .hue = some 77 := by decide
/-- Section 2.7: hue 80 and hue 511. -/
theorem test_rgb_80 : regAfter .rgb ((at_ 12 0).withHue 80) .outR = some 170 := by decide
theorem test_rgb_511 : hueToRGB 511 = ⟨0, 255, 131⟩ := by decide
/-- H10: a main word off the ROM. -/
theorem test_poll_off_rom : refusalOf (exec (.poll 1) (at_ 0 0)) = some .notRomWord := by decide
theorem test_main_phase_13 : refusalOf (mainTurn (at_ 13 0)) = some .phaseOutsideRom := by decide

/-! Fetching the table's words, and the register space. -/

theorem test_fetch_runs : ([0x10, 0x20, 0x44, 0x58, 0x60, 0x70, 0x74, 0x78, 0x80] : List Nat).all
    (fun w => (nextState (step (State.reset.withFetchWord 8 w))).isSome) = true := by decide
theorem test_fetch_read : (nextState (step ((State.reset.withLw 1 7).withFetchWord 8 0x54))).map (·.cw) = some 7 := by
  decide
theorem test_register_numbers : State.reset.regByNumber 20 = some 0 ∧ State.reset.regByNumber 13 = none := by decide
theorem test_expect : (at_ 0 7).expect .clock 7 = true ∧ State.reset.expect (.reg .pwr) 2 = false := by decide

/-! ## Witnesses: for each statement with hypotheses, a state and operands that meet all of them; one for each clause, at
a boundary. -/

/-- The standard instance with another change-only channel. -/
def on_ (c : Chan) (s : State) : State := { s with cfg := { s.cfg with chgCh := c } }

theorem witness_ReservedLineRefused :
    (at_ 0 0 |>.withSched [.line 0xFF]).sched = .line 0xFF :: [] ∧
    decode (at_ 0 0).cfg 0xFF = .error .zField := by decide

theorem witness_MainWordOffRomRefused :
    (Instr.ihue.context = .main ∧ romWord (at_ 12 0).phase ≠ some (encode .ihue) ∧ (at_ 12 0).phase.toNat ≤ 12) ∧
    (Instr.rgb.context = .main ∧ 12 < (at_ 13 0).phase.toNat) ∧
    (Instr.chg.context = .handler) := by decide

theorem witness_RstIsPowerOn : (at_ 5 9 |>.withSched [.rst, .main]).sched = .rst :: [.main] := by decide

theorem witness_EdgeOperation :
    (at_ 0 0).cfg.mode 2 = .change ∧
    ((at_ 0 9).cfg.mode 0 = .dual ∧ ((at_ 0 9).withSig 0 true).sig.get 0 = true) ∧
    ((on_ 0 (at_ 0 9)).cfg.mode 2 = .dual ∧ (on_ 0 (at_ 0 9)).sig.get 2 = false) := by decide

theorem witness_ChgOperation :
    ((at_ 0 0).cfg.mode 2 = .change ∧ (at_ 0 0).sig.get 2 = (at_ 0 0).ll) ∧
    ((on_ 0 (at_ 0 0)).cfg.mode 0 = .change ∧ ((on_ 0 (at_ 0 0)).withSig 0 true).sig.get 0 = true ∧
      ((on_ 0 (at_ 0 0)).withSig 0 true).ll = false) ∧
    ((at_ 0 0).cfg.mode 2 = .change ∧ ((at_ 0 0).withLl true).sig.get 2 = false ∧
      ((at_ 0 0).withLl true).ll = true) := by decide

theorem witness_MostRecentWidthWins :
    ((at_ 0 0).phase = BitVec.ofNat 4 (4 * (0 : Chan).val) ∧ ((at_ 0 0).cfg.mode 0 = .change → (at_ 0 0).ll = false)) ∧
    ((at_ 8 0).phase = BitVec.ofNat 4 (4 * (2 : Chan).val) ∧ (at_ 8 0).cfg.mode 2 = .change ∧ (at_ 8 0).ll = false) := by
  decide

theorem witness_SecondRisingEdge :
    (((at_ 0 0).cfg.mode 1 = .change → (at_ 0 0).ll = false) ∧ (at_ 0 0).cfg.mode 1 = .dual ∧ (at_ 0 0).cfg.tick = 1 ∧
      0 < 1 ∧ 1 + 4294967294 < 2 ^ 32) ∧
    ((at_ 0 0).cfg.mode 2 = .change ∧ (at_ 0 0).ll = false) := by decide

theorem witness_SecondLowReading :
    (publishes 1 (at_ 0 0) ∧ (at_ 0 0).cfg.mode 1 = .dual) ∧
    (publishes 2 ((at_ 0 0).withLl true) ∧ ((at_ 0 0).withLl true).cfg.mode 2 = .change) := by
  unfold publishes; decide

theorem witness_PulseRoundTrip :
    ((at_ 0 0).cfg.wf = true ∧ ((at_ 0 0).cfg.mode 2 = .change → (at_ 0 0).ll = false) ∧ (at_ 0 0).cfg.tick = 1) ∧
    ({ Params.standard with tick := 4 } : Params).wf = true := by decide

theorem witness_FirstNotificationAfterReset :
    ((at_ 0 5).sig.get 0 = false ∧ (at_ 0 5).cfg.mode 0 = .dual) ∧
    ((at_ 0 5).sig.get 2 = false ∧ (at_ 0 5).cfg.mode 2 = .change) := by decide

theorem witness_HandlersCommute : (0 : Chan) ≠ 2 := by decide

theorem witness_HandlerTouchesOwnChannelOnly :
    (Instr.edge 0 = handlerOf (at_ 0 5).cfg 0 ∧ (nextState (exec (.edge 0) (at_ 0 5))).isSome = true) ∧
    (Instr.chg = handlerOf (at_ 0 5).cfg 2 ∧ (nextState (exec .chg (at_ 0 5))).isSome = true) ∧
    (let s := at_ 0 5
     let s' := (at_ 3 5).withLw 1 8
     s'.cfg = s.cfg ∧ s'.T = s.T ∧ s'.sig.get 0 = s.sig.get 0 ∧ s'.est.get 0 = s.est.get 0 ∧
       s'.lw.get 0 = s.lw.get 0 ∧ s'.upd.get 0 = s.upd.get 0 ∧ (s.cfg.mode 0 = .change → s'.ll = s.ll)) := by decide

theorem witness_PollOperation :
    ((at_ 8 0).phase = BitVec.ofNat 4 (4 * (2 : Chan).val) ∧ (at_ 8 0).upd.get 2 = false) ∧
    ((at_ 0 0).phase = BitVec.ofNat 4 (4 * (0 : Chan).val) ∧ ((at_ 0 0).withUpd 0 true).upd.get 0 = true) := by decide

theorem witness_ReadOperation : (at_ 9 0).phase = BitVec.ofNat 4 (4 * (2 : Chan).val + 1) := by decide

theorem witness_ClrOperation : (at_ 2 0).phase = BitVec.ofNat 4 (4 * (0 : Chan).val + 2) := by decide

theorem witness_HandoffRaceCases :
    let s := ((at_ 8 0).withUpd 2 true).withLl true
    s.phase = BitVec.ofNat 4 (4 * (2 : Chan).val) ∧ s.upd.get 2 = true ∧ publishes 2 s := by
  unfold publishes; decide

theorem legal_reset : Legal State.reset := ⟨rfl, by decide, by decide, by decide⟩

theorem witness_ReadOnlyWithFlag : ∃ t, Legal (State.reset.withUpd 0 true) ∧
    step (State.reset.withUpd 0 true) = .next t ∧ romWord t.phase = some (encode (.read 0)) :=
  ⟨_, ⟨rfl, by decide, by decide, by decide⟩, rfl, by decide⟩

theorem witness_LinearMapIsExact : 1000 ≤ 2000 ∧ 2000 ≤ 2000 ∧ 1000 < 2000 ∧ 0 ≤ 360 := by decide

theorem witness_IbrtOperation :
    (at_ 3 0).phase = 3 ∧ (1000 ≤ ((at_ 3 0).withCw 2000).cw.toNat ∧ ((at_ 3 0).withCw 2000).cw.toNat ≤ 2000) ∧
    (((at_ 3 0).withCw 999).cw.toNat < 1000 ∨ 2000 < ((at_ 3 0).withCw 999).cw.toNat) := by decide

theorem witness_IpwrOperation :
    (at_ 7 0).phase = 7 ∧ 1500 ≤ ((at_ 7 0).withCw 1500).cw.toNat ∧
    (500 < ((at_ 7 0).withCw 501).cw.toNat ∧ ((at_ 7 0).withCw 501).cw.toNat < 1500) ∧
    ((at_ 7 0).withCw 500).cw.toNat ≤ 500 := by decide

theorem witness_IhueOperation :
    (at_ 11 0).phase = 11 ∧ (1000 ≤ ((at_ 11 0).withCw 1000).cw.toNat ∧ ((at_ 11 0).withCw 1000).cw.toNat ≤ 2000) ∧
    (((at_ 11 0).withCw 2001).cw.toNat < 1000 ∨ 2000 < ((at_ 11 0).withCw 2001).cw.toNat) := by decide

theorem witness_MappingsMonotonic : 1000 ≤ 1000 ∧ 1000 ≤ 2000 ∧ 2000 ≤ 2000 := by decide

theorem witness_InterpretationIsPure :
    ((at_ 3 0).withCw 1200).cw = ((at_ 3 9).withCw 1200).cw ∧
    (nextState (exec .ibrt ((at_ 3 0).withCw 1200))).isSome = true ∧
    (nextState (exec .ibrt ((at_ 3 9).withCw 1200))).isSome = true ∧
    (nextState (exec .ipwr ((at_ 7 0).withCw 500))).isSome = true ∧
    (nextState (exec .ipwr ((at_ 7 9).withCw 500))).isSome = true ∧
    (nextState (exec .ihue ((at_ 11 0).withCw 999))).isSome = true ∧
    (nextState (exec .ihue ((at_ 11 9).withCw 999))).isSome = true := by decide

theorem witness_RgbOperation :
    (at_ 12 0).phase = 12 ∧ (((at_ 12 0).withHue 360).hue = 360 ∨ ((at_ 12 0).withHue 360).hue = 0) ∧
    ((at_ 12 0).withHue 180).hue = 180 := by decide

theorem witness_HueToRgbIsExact : (359 : BitVec 9).toNat < 360 := by decide

theorem witness_HueWraps : 360 ≤ (360 : BitVec 9).toNat ∧ 360 ≤ (511 : BitVec 9).toNat := by decide

theorem witness_ColourIdempotentAndReferenced : ∃ t, exec .rgb (at_ 12 0) = .next t := ⟨_, rfl⟩

theorem witness_StepRunsDecoded :
    ((at_ 0 0 |>.withSched [.line 0x40]).sched = .line 0x40 :: [] ∧ decode (at_ 0 0).cfg 0x40 = .ok (.poll 0)) ∧
    ((at_ 12 0 |>.withSched [.main]).sched = .main :: [] ∧ romWord (at_ 12 0).phase = some 0x80 ∧
      decode (at_ 12 0).cfg 0x80 = .ok .rgb) ∧
    ((at_ 1 0).sched = [] ∧ romWord (at_ 1 0).phase = some 0x50 ∧ decode (at_ 1 0).cfg 0x50 = .ok (.read 0)) := by
  decide

theorem witness_EnvironmentMovesInputsOnly :
    (at_ 0 0 |>.withSched [.time 4294967296]).sched = .time 4294967296 :: [] ∧
    (at_ 0 0 |>.withSched [.tick 4294967295]).sched = .tick 4294967295 :: [] ∧
    (at_ 0 0 |>.withSched [.sig 2 true]).sched = .sig 2 true :: [] := by decide

/-- A next state of each of four operations, one that writes flags, one that writes outputs: the hypothesis of the three
whole-machine statements over `exec i s = next t`. -/
theorem witness_exec_next :
    (∃ t, exec (.edge 0) (at_ 0 5) = .next t) ∧ (∃ t, exec .chg ((at_ 0 5).withLl true) = .next t) ∧
    (∃ t, exec (.clr 2) ((at_ 10 0).withUpd 2 true) = .next t) ∧ (∃ t, exec .ipwr (at_ 7 0) = .next t) :=
  ⟨⟨_, rfl⟩, ⟨_, rfl⟩, ⟨_, rfl⟩, ⟨_, rfl⟩⟩

theorem witness_OperationsWriteOnlyTheirRegisters :
    mayWrite (at_ 0 5).cfg (.edge 0) (.est 1) = false ∧ (∃ t, exec (.edge 0) (at_ 0 5) = .next t) :=
  ⟨by decide, _, rfl⟩

theorem witness_SingleWriterPerField : ∃ t, exec (.edge 0) ((at_ 0 5).withSig 0 true) = .next t ∧
    t.est.get 0 ≠ ((at_ 0 5).withSig 0 true).est.get 0 :=
  ⟨_, rfl, by decide⟩

/-- Two states that differ in `est`, in a level and in the clock, and agree on what `POLL 0` may read. -/
theorem witness_OperationsDependOnlyOnTheirReads :
    let s := at_ 0 0
    let s' := ((at_ 0 5).withEst 0 7).withSig 0 true
    s.cfg = s'.cfg ∧ (∀ r, mayRead s.cfg (.poll 0) r = true → s.reg r = s'.reg r) ∧
    (∀ c, sampledChannel s.cfg (.poll 0) = some c → s.sig.get c = s'.sig.get c ∧ s.T = s'.T) ∧
    (∃ t, exec (.poll 0) s = .next t) ∧ (∃ t, exec (.poll 0) s' = .next t) ∧ mayWrite s.cfg (.poll 0) .phase = true := by
  refine ⟨rfl, ?_, ?_, ⟨_, rfl⟩, ⟨_, rfl⟩, rfl⟩
  · intro r h
    cases r <;> first | rfl | exact absurd h Bool.false_ne_true
  · intro c h
    cases h

theorem witness_StepKeepsLegal : ∃ t, Legal State.reset ∧ step State.reset = .next t := ⟨_, legal_reset, rfl⟩

theorem witness_PowerOnLegal : ({ Params.standard with resetHue := 360, tick := 4 } : Params).wf = true := by decide

theorem shown_at_poll : Shown ((at_ 0 0).withOutRgb ⟨255, 0, 0⟩) :=
  ⟨by decide, by decide, by decide, by decide⟩

theorem witness_OutputsFollowDerivedState : ∃ t, Shown ((at_ 0 0).withOutRgb ⟨255, 0, 0⟩) ∧
    (∀ rest, ((at_ 0 0).withOutRgb ⟨255, 0, 0⟩).sched ≠ .rst :: rest) ∧
    step ((at_ 0 0).withOutRgb ⟨255, 0, 0⟩) = .next t :=
  ⟨_, shown_at_poll, fun _ => (List.cons_ne_nil _ _).symm, rfl⟩

theorem witness_NeverStuck : Legal (State.reset.withSched [.line 0x10]) ∧
    (∀ (w : Byte) (rest : List Event), (State.reset.withSched [.line 0x10]).sched = .line w :: rest →
      ∃ i, decode (State.reset.withSched [.line 0x10]).cfg w = .ok i ∧
        (i.context = .main → romWord (State.reset.withSched [.line 0x10]).phase = some w)) := by
  refine ⟨⟨rfl, by decide, by decide, by decide⟩, ?_⟩
  intro w rest h
  cases h
  exact ⟨.edge 0, rfl, fun h => by cases h⟩

theorem witness_ScheduleRunsInOrder : (State.reset.withSched [.main]).sched = [.main] ∧
    (nextState (runTrace [.tick 5, .line 0x10] (State.reset.withSched [.main]))).isSome = true := by decide

theorem witness_IterationIsItsSummary : (State.reset.withUpd 2 true).phase = 0 ∧ (State.reset.withUpd 2 true).sched = [] := by
  decide

theorem witness_IterationEndsWithinThirteen : (at_ 12 0).sched = [] ∧ (at_ 12 0).phase.toNat ≤ 12 := by decide

theorem witness_HoldWithoutMeasurement : (at_ 8 0).sched = [] ∧ (at_ 8 0).upd = ⟨false, false, false⟩ ∧
    (at_ 8 0).phase.toNat % 4 = 0 ∧ (at_ 8 0).phase.toNat ≤ 12 := by decide

theorem witness_SpuriousSwitchOn :
    ((at_ 0 1500).sig.get 1 = false ∧ (at_ 0 1500).cfg.mode 1 = .dual ∧ 1500 ≤ (at_ 0 1500).now.toNat) ∧
    ((on_ 1 (at_ 0 1500)).sig.get 1 = false ∧ (on_ 1 (at_ 0 1500)).cfg.mode 1 = .change) := by decide

end Sys2Proof.Tests
end

section
/-! PROOFS. Reset of the pulse channels (`10_state.md` R41), and what a handler reads and writes (R36). -/

namespace Sys2Proof

@[simp] theorem PerChan.get_same {α : Type} (x : α) (c : Chan) : (⟨x, x, x⟩ : PerChan α).get c = x := by
  fin_cases c <;> rfl

namespace Machine

/-- At power-on every pulse channel is cleared, whatever the instance and its inputs (`10_state.md` R41). -/
theorem powerOn_clears_channel (p : Params) (l : List Event) (T : Word) (g : PerChan Bool) (c : Chan) :
    (State.powerOn p l T g).est.get c = 0 ∧ (State.powerOn p l T g).lw.get c = 0 ∧
      (State.powerOn p l T g).upd.get c = false := by
  simp

/-- Settles O6: power-on clears each channel, and both `State.reset` and the state after `rst` are power-on states. -/
theorem resetPulseChannels : Obligations.ResetPulseChannels :=
  ⟨powerOn_clears_channel _ _ _ _, rfl,
    fun s => ⟨resetRegisters s, rfl, rfl, powerOn_clears_channel s.cfg s.sched s.T s.sig⟩⟩

/-! Two states as the handler of one channel sees them. -/

/-- Agreement on the instance, the clock and channel c's level. -/
structure SameInputs (c : Chan) (s' s : State) : Prop where
  cfg : s'.cfg = s.cfg
  T : s'.T = s.T
  sig : s'.sig.get c = s.sig.get c

/-- Agreement on channel c's registers; in `CHANGE` mode the remembered level is one of them (`10_state.md` R24). -/
structure SameRegisters (p : Params) (c : Chan) (s' s : State) : Prop where
  est : s'.est.get c = s.est.get c
  lw : s'.lw.get c = s.lw.get c
  upd : s'.upd.get c = s.upd.get c
  ll : p.mode c = .change → s'.ll = s.ll

section

variable {p : Params} {c : Chan} {s' s : State}

theorem SameInputs.now (hi : SameInputs c s' s) : s'.now = s.now := by
  simp only [State.now, hi.cfg, hi.T]

/-- The capture step reads the clock, the channel's level and its start time only. -/
theorem captureChannel_congr (hi : SameInputs c s' s) (hr : SameRegisters p c s' s) :
    SameRegisters p c (captureChannel c s') (captureChannel c s) := by
  cases hs : s.sig.get c with
  | true =>
    rw [captureChannel_high hs, captureChannel_high (hi.sig.trans hs)]
    exact ⟨by simp [hi.now], hr.lw, hr.upd, hr.ll⟩
  | false =>
    rw [captureChannel_low hs, captureChannel_low (hi.sig.trans hs)]
    exact ⟨hr.est, by simp [hi.now, hr.est], by simp, hr.ll⟩

/-- The change-only handler reads the remembered level besides. -/
theorem captureIfChanged_congr (hi : SameInputs c s' s) (hr : SameRegisters p c s' s) (hl : s'.ll = s.ll) :
    SameRegisters p c (captureIfChanged c s') (captureIfChanged c s) := by
  simp only [captureIfChanged, hi.sig, hl]
  split
  · exact hr
  · exact captureChannel_congr ⟨hi.cfg, hi.T, hi.sig⟩ ⟨hr.est, hr.lw, hr.upd, fun _ => rfl⟩

/-- What a handler leaves in its channel's registers depends only on them and on its inputs. -/
theorem handlerEffect_congr (hi : SameInputs c s' s) (hr : SameRegisters s.cfg c s' s) :
    SameRegisters s.cfg c (handlerEffect c s') (handlerEffect c s) := by
  rcases mode_cases s.cfg c with hm | hm <;> simp only [handlerEffect, hi.cfg, hm]
  · exact captureChannel_congr hi hr
  · exact captureIfChanged_congr hi hr (hr.ll hm)

end

/-- A handler changes nothing but its channel's registers: `handlerEffect_frame` with the values written named. -/
theorem handlerEffect_writes_own (c : Chan) (s : State) :
    handlerEffect c s = { s with
      est := s.est.set c ((handlerEffect c s).est.get c)
      lw := s.lw.set c ((handlerEffect c s).lw.get c)
      upd := s.upd.set c ((handlerEffect c s).upd.get c)
      ll := if s.cfg.mode c = .change then (handlerEffect c s).ll else s.ll } := by
  obtain ⟨e, w, u, l, h, hl⟩ := handlerEffect_frame c s
  rw [h]
  rcases mode_cases s.cfg c with hm | hm
  · simp [hm, hl hm]
  · simp [hm]

/-- Settles O19: the frame of `handlerEffect`, and its congruence in what the channel owns. -/
theorem handlerTouchesOwnChannelOnly : Obligations.HandlerTouchesOwnChannelOnly := by
  rintro _ s t c rfl ht
  obtain rfl : handlerEffect c s = t := by simpa [exec_handlerOf] using ht
  refine ⟨handlerEffect_writes_own c s, fun s' hcfg hT hsig hest hlw hupd hll => ?_⟩
  obtain ⟨est, lw, upd, ll⟩ := handlerEffect_congr ⟨hcfg, hT, hsig⟩ ⟨hest, hlw, hupd, hll⟩
  exact ⟨handlerEffect c s', hcfg ▸ exec_handlerOf c s', est, lw, upd, ll⟩

end Machine

end Sys2Proof
end

section
/-! PROOFS. Shared memory: one writer per field (`20_memory.md` R63). -/

namespace Sys2Proof.Machine

/-! What the handler of channel c leaves alone: the two other channels, `ll` in `DUAL` mode, the main loop's fields. -/

section

variable {c d : Chan} {s : State}

theorem handlerEffect_keeps_other_channel (h : d ≠ c) :
    (handlerEffect c s).est.get d = s.est.get d ∧ (handlerEffect c s).lw.get d = s.lw.get d ∧
      (handlerEffect c s).upd.get d = s.upd.get d := by
  obtain ⟨e, w, u, l, hf, -⟩ := handlerEffect_frame c s
  simp [hf, PerChan.get_set_ne h]

theorem handlerEffect_keeps_ll (h : s.cfg.mode c = .dual) : (handlerEffect c s).ll = s.ll := by
  obtain ⟨e, w, u, l, hf, hl⟩ := handlerEffect_frame c s
  simp [hf, hl h]

theorem handlerEffect_keeps_main_fields (c : Chan) (s : State) :
    (handlerEffect c s).bri = s.bri ∧ (handlerEffect c s).pwr = s.pwr ∧ (handlerEffect c s).hue = s.hue ∧
      (handlerEffect c s).cw = s.cw ∧ (handlerEffect c s).phase = s.phase ∧
      (handlerEffect c s).outBri = s.outBri ∧ (handlerEffect c s).outPwr = s.outPwr ∧
      (handlerEffect c s).outR = s.outR ∧ (handlerEffect c s).outG = s.outG ∧ (handlerEffect c s).outB = s.outB := by
  obtain ⟨e, w, u, l, hf, -⟩ := handlerEffect_frame c s
  simp [hf]

end

/-- The capture step leaves every flag alone or raises its channel's. -/
theorem captureChannel_upd (c : Chan) (s : State) :
    (captureChannel c s).upd = s.upd ∨ (captureChannel c s).upd = s.upd.set c true := by
  cases h : s.sig.get c with
  | true => exact .inl (by simp [captureChannel_high h])
  | false => exact .inr (by simp [captureChannel_low h])

/-- So does a handler, which captures or does nothing. -/
theorem handlerEffect_upd (c : Chan) (s : State) :
    (handlerEffect c s).upd = s.upd ∨ (handlerEffect c s).upd = s.upd.set c true := by
  rcases mode_cases s.cfg c with hm | hm <;> simp only [handlerEffect, hm]
  · exact captureChannel_upd c s
  · unfold captureIfChanged
    split
    · exact .inl rfl
    · exact captureChannel_upd c (s.withLl (s.sig.get c))

/-- A handler changes no flag but its own channel's, and that one only to 1. -/
theorem handlerEffect_changes_upd {c d : Chan} {s : State} (h : (handlerEffect c s).upd.get d ≠ s.upd.get d) :
    d = c ∧ (handlerEffect c s).upd.get d = true := by
  obtain rfl : d = c := by
    by_contra hd
    exact h (handlerEffect_keeps_other_channel hd).2.2
  rcases handlerEffect_upd d s with hu | hu
  · exact absurd (congrArg (·.get d) hu) h
  · simp [hu]

/-- A handler operation that completes is the handler of some channel: of its own for `EDGE`, of `CHG_CH` for `CHG`. -/
theorem exec_handler_next {i : Instr} {s t : State} (hi : i.context = .handler) (h : exec i s = .next t) :
    ∃ c, i = handlerOf s.cfg c ∧ t = handlerEffect c s := by
  cases i with
  | edge c =>
    obtain ⟨hc, rfl⟩ := exec_edge_next_iff.mp h
    exact ⟨c, by simp [handlerOf, Params.mode, hc], by simp [handlerEffect, Params.mode, hc]⟩
  | chg =>
    obtain rfl := exec_chg_next_iff.mp h
    exact ⟨s.cfg.chgCh, by simp [handlerOf, Params.mode], by simp [handlerEffect, Params.mode]⟩
  | poll _ | read _ | clr _ | ibrt | ipwr | ihue | rgb => cases hi

/-- A main operation writes no start time, width or remembered level, and of the flags it can only clear one. -/
theorem exec_main_keeps_capture {i : Instr} {s t : State} (hi : i.context = .main) (h : exec i s = .next t) :
    t.est = s.est ∧ t.lw = s.lw ∧ t.ll = s.ll ∧ ∀ c, t.upd.get c = s.upd.get c ∨ t.upd.get c = false := by
  cases i with
  | edge _ | chg => cases hi
  | poll _ => obtain ⟨-, rfl⟩ := exec_poll_next_iff.mp h; simp
  | read _ => obtain ⟨-, rfl⟩ := exec_read_next_iff.mp h; simp
  | clr c =>
    obtain ⟨-, rfl⟩ := exec_clr_next_iff.mp h
    refine ⟨rfl, rfl, rfl, fun d => ?_⟩
    by_cases hd : d = c
    · exact .inr (by simp [hd])
    · exact .inl (by simp [PerChan.get_set_ne hd])
  | ibrt => obtain ⟨-, rfl⟩ := exec_ibrt_next_iff.mp h; simp
  | ipwr => obtain ⟨-, rfl⟩ := exec_ipwr_next_iff.mp h; simp
  | ihue => obtain ⟨-, rfl⟩ := exec_ihue_next_iff.mp h; simp
  | rgb => obtain ⟨-, rfl⟩ := exec_rgb_next_iff.mp h; simp

/-- Settles O38: by the operation's context, a handler's effect stays in its channel and only raises the flag, a main
operation touches of the capture registers only a flag, which it clears. -/
theorem singleWriterPerField : Obligations.SingleWriterPerField := by
  intro i s t h
  cases hi : i.context with
  | handler =>
    obtain ⟨c, rfl, rfl⟩ := exec_handler_next hi h
    refine ⟨fun d hd => ?_, fun hl => ?_, fun d hd => ?_, ?_⟩
    · have hdc : d = c := by
        by_contra hne
        obtain ⟨hest, hlw, -⟩ := handlerEffect_keeps_other_channel (s := s) hne
        exact hd.elim (· hest) (· hlw)
      rw [hdc]
    · rcases mode_cases s.cfg c with hm | hm
      · exact absurd (handlerEffect_keeps_ll hm) hl
      · simp [handlerOf, hm]
    · obtain ⟨rfl, hset⟩ := handlerEffect_changes_upd hd
      exact .inl ⟨rfl, hset⟩
    · simp [handlerEffect_keeps_main_fields c s]
  | main =>
    obtain ⟨hest, hlw, hll, hupd⟩ := exec_main_keeps_capture hi h
    refine ⟨fun d hd => ?_, fun hl => absurd hll hl, fun d hd => ?_, fun _ => rfl⟩
    · simp [hest, hlw] at hd
    · exact .inr ⟨rfl, (hupd d).resolve_left hd⟩

end Sys2Proof.Machine
end

section
/-! PROOFS. Capture: a second rising edge with no falling edge between (`40_capture.md` R106). -/

namespace Sys2Proof.Machine

@[simp] theorem handlerEffect_cfg (c : Chan) (s : State) : (handlerEffect c s).cfg = s.cfg := by
  rw [handlerEffect_writes_own]

@[simp] theorem handlerEffect_T (c : Chan) (s : State) : (handlerEffect c s).T = s.T := by
  rw [handlerEffect_writes_own]

/-- `act_notify` for the notification as a trace writes it, with the instance it was written for. -/
theorem act_notify_of_cfg {p : Params} {s : State} (c : Chan) (h : s.cfg = p) :
    act (notify p c) s = .next (handlerEffect c s) :=
  h ▸ act_notify c s

/-- Channel c is in mid-pulse: its input is HIGH, its handler has seen that, and the width will count from `start`. -/
structure Measuring (c : Chan) (start : Word) (s : State) : Prop where
  high : s.sig.get c = true
  seen : s.cfg.mode c = .change → s.ll = true
  est : s.est.get c = start

section

variable {c : Chan} {start : Word} {s : State}

/-- A rising edge, handled at once, starts the measurement at the clock reading. -/
theorem measuring_of_rise (hl : s.cfg.mode c = .change → s.ll = false) :
    Measuring c s.now (handlerEffect c (s.withSig c true)) := by
  have hs : (s.withSig c true).sig.get c = true := by simp
  rcases mode_cases s.cfg c with hm | hm <;> simp only [handlerEffect, State.withSig_cfg, hm]
  · rw [captureChannel_high hs]
    exact ⟨hs, by simp [hm], by simp [State.now]⟩
  · rw [captureIfChanged_rising hs (hl hm)]
    exact ⟨hs, by simp, by simp [State.now]⟩

theorem Measuring.withT (h : Measuring c start s) (x : Word) : Measuring c start (s.withT x) :=
  ⟨h.high, h.seen, h.est⟩

/-- In `DUAL` mode a second HIGH reading starts the measurement afresh. -/
theorem Measuring.restarts (h : Measuring c start s) (hm : s.cfg.mode c = .dual) :
    Measuring c s.now (handlerEffect c s) := by
  simp only [handlerEffect, hm, captureChannel_high h.high]
  exact ⟨h.high, h.seen, by simp⟩

/-- In `CHANGE` mode it is ignored: the level is the remembered one. -/
theorem Measuring.ignores (h : Measuring c start s) (hm : s.cfg.mode c = .change) : handlerEffect c s = s := by
  simp only [handlerEffect, hm]
  exact captureIfChanged_same (h.high.trans (h.seen hm).symm)

/-- A falling edge, handled at once, publishes the time since the start. -/
theorem Measuring.fall (h : Measuring c start s) :
    (handlerEffect c (s.withSig c false)).upd.get c = true ∧
      (handlerEffect c (s.withSig c false)).lw.get c = (handlerEffect c (s.withSig c false)).now - start := by
  obtain ⟨l, he⟩ := handlerEffect_publishes (c := c) (s := s.withSig c false) ⟨by simp, h.seen⟩
  simp [he, State.now, h.est]

end

/-- The state in which the second HIGH reading of channel c finds the machine, a microseconds after the rising edge. -/
def beforeSecondRise (c : Chan) (a : Nat) (s : State) : State :=
  let s' := handlerEffect c (s.withSig c true)
  s'.withT (s'.T + BitVec.ofNat 32 a)

/-- The state b microseconds after that reading has been handled. -/
def afterSecondRise (c : Chan) (a b : Nat) (s : State) : State :=
  let s' := handlerEffect c (beforeSecondRise c a s)
  s'.withT (s'.T + BitVec.ofNat 32 b)

section

variable (c : Chan) (a b : Nat) (s : State)

@[simp] theorem beforeSecondRise_cfg : (beforeSecondRise c a s).cfg = s.cfg := by simp [beforeSecondRise]

@[simp] theorem beforeSecondRise_T : (beforeSecondRise c a s).T = s.T + BitVec.ofNat 32 a := by
  simp [beforeSecondRise]

@[simp] theorem afterSecondRise_cfg : (afterSecondRise c a b s).cfg = s.cfg := by simp [afterSecondRise]

@[simp] theorem afterSecondRise_T : (afterSecondRise c a b s).T = s.T + BitVec.ofNat 32 a + BitVec.ofNat 32 b := by
  simp [afterSecondRise]

/-- No action of the trace is refused. -/
theorem runTrace_secondRise :
    runTrace (rise s.cfg c ++ [.tick a, notify s.cfg c, .tick b] ++ fall s.cfg c) s =
      .next (handlerEffect c ((afterSecondRise c a b s).withSig c false)) := by
  have h := act_notify_of_cfg c (s := (afterSecondRise c a b s).withSig c false) (afterSecondRise_cfg c a b s)
  calc
    _ = runTrace ([.tick a, notify s.cfg c, .tick b] ++ fall s.cfg c) (handlerEffect c (s.withSig c true)) :=
      (runTrace_cons_next rfl).trans (runTrace_cons_next (act_notify_of_cfg c rfl))
    _ = runTrace (.tick b :: fall s.cfg c) (handlerEffect c (beforeSecondRise c a s)) :=
      (runTrace_cons_next rfl).trans (runTrace_cons_next (act_notify_of_cfg c (beforeSecondRise_cfg c a s)))
    _ = runTrace (fall s.cfg c) (afterSecondRise c a b s) := runTrace_cons_next rfl
    _ = _ := (runTrace_cons_next rfl).trans (runTrace_cons_next h)

end

section

variable {c : Chan} {a b : Nat} {s : State}

theorem measuring_beforeSecondRise (hl : s.cfg.mode c = .change → s.ll = false) :
    Measuring c s.now (beforeSecondRise c a s) :=
  (measuring_of_rise hl).withT _

theorem measuring_afterSecondRise_dual (hm : s.cfg.mode c = .dual) :
    Measuring c (clockReading s.cfg.tick (s.T + BitVec.ofNat 32 a)) (afterSecondRise c a b s) := by
  have h := (measuring_beforeSecondRise (a := a) (s := s) (c := c) (by simp [hm])).restarts (by simpa using hm)
  simp only [State.now, beforeSecondRise_cfg, beforeSecondRise_T] at h
  exact h.withT _

theorem measuring_afterSecondRise_change (hl : s.cfg.mode c = .change → s.ll = false) (hm : s.cfg.mode c = .change) :
    Measuring c s.now (afterSecondRise c a b s) := by
  have h := measuring_beforeSecondRise (a := a) hl
  rw [afterSecondRise, h.ignores (by simpa using hm)]
  exact h.withT _

end

/-- Settles O13: the start that the falling edge finds is the second reading's in `DUAL` mode, the first's in `CHANGE`
mode; at granularity 1 the time since the second reading is b. -/
theorem secondRisingEdge : Obligations.SecondRisingEdge := by
  intro s c a b hl
  refine ⟨_, runTrace_secondRise c a b s, ?_⟩
  rcases mode_cases s.cfg c with hm | hm
  · obtain ⟨hupd, hlw⟩ := (measuring_afterSecondRise_dual (a := a) (b := b) hm).fall
    refine ⟨hupd, fun _ => hlw, fun _ htick ha hab => ?_, by simp [hm]⟩
    have hb : (handlerEffect c ((afterSecondRise c a b s).withSig c false)).lw.get c = BitVec.ofNat 32 b := by
      simp [hlw, State.now, htick]
    rw [hb, BitVec.toNat_ofNat]
    omega
  · obtain ⟨hupd, hlw⟩ := (measuring_afterSecondRise_change (a := a) (b := b) hl hm).fall
    exact ⟨hupd, by simp [hm], by simp [hm], fun _ => hlw⟩

end Sys2Proof.Machine
end

section
/-! PROOFS. Interpretation: the mappings are functions of `cw`, but for the two holding arms (`42_interpret.md` R145). -/

namespace Sys2Proof.Machine

/-- Only NO_SIGNAL hands the held level on. -/
theorem powerLevel_congr {c : Power} (h : c ≠ .noSignal) (held held' : Bool) :
    powerLevel c held = powerLevel c held' := by
  cases c with
  | noSignal => exact absurd rfl h
  | off | on => rfl

/-! What each interpretation leaves in its registers, from `cw` and, where an arm holds, the register's own old value. -/

section

variable {s t : State}

theorem exec_ibrt_writes (h : exec .ibrt s = .next t) :
    t.bri = brightness s.cw.toNat ∧ t.outBri = brightness s.cw.toNat := by
  obtain ⟨-, rfl⟩ := exec_ibrt_next_iff.mp h
  simp

theorem exec_ipwr_writes (h : exec .ipwr s = .next t) :
    t.pwr = powerOf s.cw.toNat ∧ t.outPwr = powerLevel (powerOf s.cw.toNat) s.outPwr := by
  obtain ⟨-, rfl⟩ := exec_ipwr_next_iff.mp h
  simp

theorem exec_ihue_writes (h : exec .ihue s = .next t) : t.hue = (hueOf s.cw.toNat).getD s.hue := by
  obtain ⟨-, rfl⟩ := exec_ihue_next_iff.mp h
  simp

end

/-- Settles O30: what each operation writes is a function of `cw`; the power class decides whether the output is held,
the hue policy whether the hue is. -/
theorem interpretationIsPure : Obligations.InterpretationIsPure := by
  intro s s' hcw
  refine ⟨fun t t' h h' => ?_, fun t t' h h' => ?_, fun t t' h h' => ?_⟩
  · obtain ⟨hbri, hout⟩ := exec_ibrt_writes h
    obtain ⟨hbri', hout'⟩ := exec_ibrt_writes h'
    simp [hbri, hbri', hout, hout', hcw]
  · obtain ⟨hpwr, hout⟩ := exec_ipwr_writes h
    obtain ⟨hpwr', hout'⟩ := exec_ipwr_writes h'
    rw [← hcw] at hpwr' hout'
    refine ⟨hpwr.trans hpwr'.symm, ?_⟩
    by_cases hc : powerOf s.cw.toNat = .noSignal
    · exact .inr (by simp [hpwr, hout, hout', hc])
    · exact .inl (by rw [hout, hout', powerLevel_congr hc s.outPwr s'.outPwr])
  · have hhue := exec_ihue_writes h
    have hhue' := exec_ihue_writes h'
    rw [← hcw] at hhue'
    cases hv : hueOf s.cw.toNat with
    | none => exact .inr (by simp [hhue, hhue', hv])
    | some x => exact .inl (by simp [hhue, hhue', hv])

end Sys2Proof.Machine
end

section
/-! PROOFS. The encoding: a word is its three fields, and the decoder inverts the encoder (`30_encoding.md` sections
1 to 4). -/

namespace Sys2Proof

/-! The fields of a word, in arithmetic. -/

theorem zField_eq (b : Byte) : zField b = b.toNat % 4 := by simp [zField]

theorem chField_eq (b : Byte) : chField b = b.toNat / 4 % 4 := by
  simp [chField, Nat.shiftRight_eq_div_pow]

theorem opcField_eq (b : Byte) : opcField b = b.toNat / 16 := by
  have := b.isLt
  simp only [opcField, BitVec.extractLsb'_toNat, Nat.shiftRight_eq_div_pow]
  omega

theorem op8_toNat (o : BitVec 4) (c : Chan) : (op8 o c).toNat = 16 * o.toNat + 4 * c.val := by
  revert o c; decide

theorem chanOf_eq_some_iff {n : Nat} {c : Chan} : chanOf n = some c ↔ n = c.val := by
  constructor
  · intro h
    unfold chanOf at h
    split at h <;> cases h <;> rfl
  · rintro rfl
    fin_cases c <;> rfl

theorem chanOf_eq_none_iff {n : Nat} : chanOf n = none ↔ 3 ≤ n := by
  rcases n with _ | _ | _ | n <;> simp [chanOf]

/-- A word with `z` = 0 is the word of its `opc` and its channel. -/
theorem eq_op8_of_fields {b : Byte} {o : BitVec 4} {c : Chan} (hz : zField b = 0) (hc : chanOf (chField b) = some c)
    (ho : opcField b = o.toNat) : op8 o c = b := by
  rw [chanOf_eq_some_iff, chField_eq] at hc
  rw [zField_eq] at hz
  rw [opcField_eq] at ho
  apply BitVec.eq_of_toNat_eq
  rw [op8_toNat]
  omega

theorem encode_policyOf (c : Chan) : encode (policyOf c) = op8 7 c := by fin_cases c <;> rfl

theorem policyOf_wf (p : Params) (c : Chan) : (policyOf c).wf p = true := by fin_cases c <;> rfl

/-- What the decoder reads from a word is an operation of the instance, and the word is its encoding. -/
theorem decode_sound {p : Params} {b : Byte} {i : Instr} (h : decode p b = .ok i) : i.wf p = true ∧ encode i = b := by
  unfold decode at h
  split at h
  · cases h
  rename_i hz
  rw [not_not] at hz
  split at h
  · cases h
  rename_i c hc
  have hw {o : BitVec 4} (ho : opcField b = o.toNat) : op8 o c = b := eq_op8_of_fields hz hc ho
  split at h
  case h_1 ho =>
    split at h
    · cases h
    · rename_i hm
      cases h
      have hd : p.mode c = .dual := (Machine.mode_cases p c).resolve_right hm
      exact ⟨by simp [Instr.wf, hd], hw ho⟩
  case h_2 ho =>
    split at h <;> cases h
    subst_vars
    exact ⟨rfl, hw ho⟩
  case h_3 ho => cases h; exact ⟨rfl, hw ho⟩
  case h_4 ho => cases h; exact ⟨rfl, hw ho⟩
  case h_5 ho => cases h; exact ⟨rfl, hw ho⟩
  case h_6 ho => cases h; exact ⟨policyOf_wf p c, (encode_policyOf c).trans (hw ho)⟩
  case h_7 ho =>
    split at h <;> cases h
    subst_vars
    exact ⟨rfl, hw ho⟩
  case h_8 => cases h

/-- Every operation of the instance is read back from its word. -/
theorem decode_encode {p : Params} {i : Instr} (h : i.wf p = true) : decode p (encode i) = .ok i := by
  cases i with
  | edge c => exact Laws.RoundTrip.edge c p h
  | chg => exact Laws.RoundTrip.chg p h
  | poll c => exact Laws.RoundTrip.poll c p h
  | read c => exact Laws.RoundTrip.read c p h
  | clr c => exact Laws.RoundTrip.clr c p h
  | ibrt => exact Laws.RoundTrip.ibrt p h
  | ipwr => exact Laws.RoundTrip.ipwr p h
  | ihue => exact Laws.RoundTrip.ihue p h
  | rgb => exact Laws.RoundTrip.rgb p h

/-- Settles O1: the decoder is sound, and complete on the encodings. -/
theorem decodeIffEncode : Obligations.DecodeIffEncode := by
  refine fun p b i => ⟨decode_sound, ?_⟩
  rintro ⟨hi, rfl⟩
  exact decode_encode hi

/-- Settles O2, by evaluation. -/
theorem listedWordsDecode : Obligations.ListedWordsDecode := by
  unfold Obligations.ListedWordsDecode
  decide

theorem mode_eq_change_iff {p : Params} {c : Chan} : p.mode c = .change ↔ c = p.chgCh := by
  simp [Params.mode]

theorem opcField_lt (b : Byte) : opcField b < 16 := (b.extractLsb' 4 4).isLt

/-- The reserved words among those with `z` = 0 and a channel, by their `opc`. -/
theorem decode_error_iff {p : Params} {b : Byte} {c : Chan} (hz : zField b = 0) (hc : chanOf (chField b) = some c) :
    (∃ why, decode p b = .error why) ↔
      opcField b ∈ ([0, 3, 9, 10, 11, 12, 13, 14, 15] : List Nat) ∨
        ((opcField b = 2 ∨ opcField b = 8) ∧ c.val ≠ 0) ∨ (opcField b = 1 ∧ c.val = p.chgCh.val) := by
  rw [Fin.val_inj, ne_eq c.val, Fin.val_eq_zero_iff]
  simp only [decode, hz, hc, ne_eq, not_true_eq_false, if_false]
  split
  case h_8 h1 h2 h4 h5 h6 h7 h8 =>
    have := opcField_lt b
    simp only [imp_false] at h1 h2 h4 h5 h6 h7 h8
    simp only [Except.error.injEq, exists_eq', List.mem_cons, List.not_mem_nil, true_iff]
    omega
  case h_1 ho => by_cases h : c = p.chgCh <;> simp [ho, mode_eq_change_iff, h]
  case h_2 ho => by_cases h : c = 0 <;> simp [ho, h]
  case h_7 ho => by_cases h : c = 0 <;> simp [ho, h]
  all_goals rename_i ho; simp [ho]

/-- Settles O3: a nonzero `z`, then a channel 3, then the words of one channel by their `opc`. -/
theorem reservedWordsExactly : Obligations.ReservedWordsExactly := by
  intro p b
  rw [← zField_eq, ← chField_eq, ← opcField_eq]
  by_cases hz : zField b = 0
  swap
  · simp [decode, hz]
  cases hc : chanOf (chField b) with
  | none =>
    have h3 : chField b = 3 := by
      have := chanOf_eq_none_iff.mp hc
      rw [chField_eq] at this ⊢
      omega
    simp only [decode, hz, hc]
    simp [h3]
  | some c =>
    have hch : chField b = c.val := chanOf_eq_some_iff.mp hc
    have h3 : c.val ≠ 3 := by omega
    rw [decode_error_iff hz hc, hch]
    simp [hz, h3]

end Sys2Proof
end

section
/-! PROOFS. Every step keeps a state legal, and a legal state is never stuck (`10_state.md` sections 4 and 9,
`41_handoff.md` section 2, `00_scope.md` section 4). -/

namespace Sys2Proof.Machine

/-- The positions of channel c's group of the ROM and the one after it do not wrap. -/
theorem phase_toNat (c : Chan) {k : Nat} (h : k ≤ 4) : (BitVec.ofNat 4 (4 * c.val + k)).toNat = 4 * c.val + k := by
  rw [BitVec.toNat_ofNat]
  omega

/-! The handoff operations at their places in the ROM, with the position they go on to. -/

section

variable {c : Chan} {s t : State}

theorem exec_poll_set (hp : s.phase = BitVec.ofNat 4 (4 * c.val)) (hu : s.upd.get c = true) :
    exec (.poll c) s = .next (s.withPhase (BitVec.ofNat 4 (4 * c.val + 1))) :=
  exec_poll_next_iff.mpr ⟨hp, by rw [hu, if_pos rfl, hp, phase_poll_succ]⟩

theorem exec_poll_clear (hp : s.phase = BitVec.ofNat 4 (4 * c.val)) (hu : s.upd.get c = false) :
    exec (.poll c) s = .next (s.withPhase (BitVec.ofNat 4 (4 * c.val + 4))) :=
  exec_poll_next_iff.mpr ⟨hp, by rw [hu, if_neg Bool.false_ne_true, hp, phase_poll_skip]⟩

theorem exec_read_at (hp : s.phase = BitVec.ofNat 4 (4 * c.val + 1)) :
    exec (.read c) s = .next ((s.withCw (s.lw.get c)).withPhase (BitVec.ofNat 4 (4 * c.val + 2))) :=
  exec_read_next_iff.mpr ⟨hp, by rw [hp, phase_read_succ]⟩

theorem exec_clr_at (hp : s.phase = BitVec.ofNat 4 (4 * c.val + 2)) :
    exec (.clr c) s = .next ((s.withUpd c false).withPhase (BitVec.ofNat 4 (4 * c.val + 3))) :=
  exec_clr_next_iff.mpr ⟨hp, by rw [hp, phase_clr_succ]⟩

theorem exec_poll_next (h : exec (.poll c) s = .next t) :
    (s.upd.get c = true ∧ t = s.withPhase (BitVec.ofNat 4 (4 * c.val + 1))) ∨
      (s.upd.get c = false ∧ t = s.withPhase (BitVec.ofNat 4 (4 * c.val + 4))) := by
  have hp := (exec_poll_next_iff.mp h).1
  cases hu : s.upd.get c with
  | true => exact .inl ⟨rfl, by simpa [exec_poll_set hp hu, eq_comm] using h⟩
  | false => exact .inr ⟨rfl, by simpa [exec_poll_clear hp hu, eq_comm] using h⟩

theorem exec_read_next (h : exec (.read c) s = .next t) :
    s.phase = BitVec.ofNat 4 (4 * c.val + 1) ∧
      t = (s.withCw (s.lw.get c)).withPhase (BitVec.ofNat 4 (4 * c.val + 2)) := by
  have hp := (exec_read_next_iff.mp h).1
  exact ⟨hp, by simpa [exec_read_at hp, eq_comm] using h⟩

theorem exec_clr_next (h : exec (.clr c) s = .next t) :
    t = (s.withUpd c false).withPhase (BitVec.ofNat 4 (4 * c.val + 3)) := by
  have hp := (exec_clr_next_iff.mp h).1
  simpa [exec_clr_at hp, eq_comm] using h

end

@[simp] theorem handlerEffect_phase (c : Chan) (s : State) : (handlerEffect c s).phase = s.phase := by
  rw [handlerEffect_writes_own]

@[simp] theorem handlerEffect_hue (c : Chan) (s : State) : (handlerEffect c s).hue = s.hue := by
  rw [handlerEffect_writes_own]

/-- A flag that is set stays set through every handler. -/
theorem handlerEffect_raises {c d : Chan} {s : State} (h : s.upd.get d = true) :
    (handlerEffect c s).upd.get d = true := by
  by_contra hne
  exact hne (handlerEffect_changes_upd (by rwa [h])).2

/-! The legal states. -/

/-- A well-formed instance is in a legal state after power-on. -/
theorem Legal.powerOn {p : Params} (hp : p.wf = true) (l : List Event) (T : Word) (g : PerChan Bool) :
    Legal (State.powerOn p l T g) where
  instance_ok := hp
  phase_le := by simp
  hue_le := by
    simp only [Params.wf, Bool.and_eq_true, decide_eq_true_eq] at hp
    exact hp.2
  flag_held c h := by simp at h

/-- Settles O43: `State.reset` is the power-on state of the standard instance. -/
theorem powerOnLegal : Obligations.PowerOnLegal :=
  ⟨Legal.powerOn rfl _ _ _, fun _ l T g hp => Legal.powerOn hp l T g⟩

section

variable {s t : State} {c : Chan}

theorem Legal.withSched (h : Legal s) (l : List Event) : Legal (s.withSched l) :=
  ⟨h.instance_ok, h.phase_le, h.hue_le, h.flag_held⟩

theorem Legal.withT (h : Legal s) (T : Word) : Legal (s.withT T) :=
  ⟨h.instance_ok, h.phase_le, h.hue_le, h.flag_held⟩

theorem Legal.withSig (h : Legal s) (c : Chan) (v : Bool) : Legal (s.withSig c v) :=
  ⟨h.instance_ok, h.phase_le, h.hue_le, h.flag_held⟩

theorem Legal.handlerEffect (h : Legal s) (c : Chan) : Legal (handlerEffect c s) where
  instance_ok := by simpa using h.instance_ok
  phase_le := by simpa using h.phase_le
  hue_le := by simpa using h.hue_le
  flag_held d hd := handlerEffect_raises (h.flag_held d (by simpa using hd))

/-- Where the sequencer stands at neither `READ` nor `CLR`, nothing is asked of the flags. -/
theorem Legal.of_phase (hcfg : t.cfg.wf = true) (hh : t.hue.toNat ≤ 360) (hp : t.phase.toNat ≤ 12)
    (hm : t.phase.toNat % 4 = 0 ∨ t.phase.toNat % 4 = 3) : Legal t :=
  ⟨hcfg, hp, hh, fun c h => by omega⟩

/-- At `READ c` or `CLR c` it is asked of channel c's. -/
theorem Legal.of_flag (hcfg : t.cfg.wf = true) (hh : t.hue.toNat ≤ 360) (hu : t.upd.get c = true)
    (hp : t.phase.toNat = 4 * c.val + 1 ∨ t.phase.toNat = 4 * c.val + 2) : Legal t := by
  refine ⟨hcfg, by omega, hh, fun d hd => ?_⟩
  obtain rfl : d = c := Fin.ext (by omega)
  exact hu

/-- `POLL c` goes on to `READ c` only with the flag set. -/
theorem Legal.poll (h : Legal s) (ht : exec (.poll c) s = .next t) : Legal t := by
  obtain ⟨hu, rfl⟩ | ⟨hu, rfl⟩ := exec_poll_next ht
  · exact .of_flag h.instance_ok h.hue_le hu (.inl (phase_toNat c (by omega)))
  · refine .of_phase h.instance_ok h.hue_le ?_ ?_ <;> rw [State.withPhase_phase, phase_toNat c le_rfl] <;> omega

/-- `READ c` goes on to `CLR c` with the flag it was reached with. -/
theorem Legal.read (h : Legal s) (ht : exec (.read c) s = .next t) : Legal t := by
  obtain ⟨hp, rfl⟩ := exec_read_next ht
  have hu := h.flag_held c (.inl (by rw [hp, phase_toNat c (by omega)]))
  exact .of_flag h.instance_ok h.hue_le hu (.inr (phase_toNat c (by omega)))

/-- `CLR c` clears the flag and leaves. -/
theorem Legal.clr (h : Legal s) (ht : exec (.clr c) s = .next t) : Legal t := by
  obtain rfl := exec_clr_next ht
  refine .of_phase h.instance_ok h.hue_le ?_ ?_ <;> rw [State.withPhase_phase, phase_toNat c (by omega)] <;> omega

/-- The hue policy gives 0 to 360 or holds. -/
theorem Legal.ihue (h : Legal s) (ht : exec .ihue s = .next t) : Legal t := by
  obtain ⟨hp, rfl⟩ := exec_ihue_next_iff.mp ht
  refine .of_phase h.instance_ok ?_ (by simp [hp]) (by simp [hp])
  cases hv : hueOf s.cw.toNat with
  | none => exact h.hue_le
  | some x => exact hueOf_le hv

/-- Every operation keeps a state legal. -/
theorem Legal.exec {i : Instr} (h : Legal s) (ht : exec i s = .next t) : Legal t := by
  cases hi : i.context with
  | handler =>
    obtain ⟨c, -, rfl⟩ := exec_handler_next hi ht
    exact h.handlerEffect c
  | main =>
    cases i with
    | edge _ | chg => cases hi
    | poll c => exact h.poll ht
    | read c => exact h.read ht
    | clr c => exact h.clr ht
    | ibrt =>
      obtain ⟨hp, rfl⟩ := exec_ibrt_next_iff.mp ht
      exact .of_phase h.instance_ok h.hue_le (by simp [hp]) (by simp [hp])
    | ipwr =>
      obtain ⟨hp, rfl⟩ := exec_ipwr_next_iff.mp ht
      exact .of_phase h.instance_ok h.hue_le (by simp [hp]) (by simp [hp])
    | ihue => exact h.ihue ht
    | rgb =>
      obtain ⟨-, rfl⟩ := exec_rgb_next_iff.mp ht
      exact .of_phase h.instance_ok h.hue_le (by simp) (by simp)

end

/-- Settles O42: a step resets, moves an input, or executes an operation. -/
theorem stepKeepsLegal : Obligations.StepKeepsLegal := by
  intro s t hs ht
  obtain ⟨rest, ⟨-, rfl⟩ | ⟨T, rfl⟩ | ⟨c, v, rfl⟩ | ⟨i, hx⟩⟩ := step_next ht
  · exact Legal.powerOn hs.instance_ok _ _ _
  · exact (hs.withSched rest).withT T
  · exact (hs.withSched rest).withSig c v
  · exact (hs.withSched rest).exec hx

/-- Settles O24: the next state is legal, and `READ c` stands at 4c+1. -/
theorem readOnlyWithFlag : Obligations.ReadOnlyWithFlag := by
  intro s t c hs ht hr
  refine (stepKeepsLegal s t hs ht).flag_held c (.inl ?_)
  rw [(romWord_read_iff _ c).mp hr, phase_toNat c (by omega)]

/-! Nothing blocks. -/

/-- A main operation at its place in the ROM completes. -/
theorem exec_main_completes {i : Instr} {s : State} (hi : i.context = .main) (h : romWord s.phase = some (encode i)) :
    ∃ t, exec i s = .next t := by
  cases i with
  | edge _ | chg => cases hi
  | poll c => exact ⟨_, exec_poll_next_iff.mpr ⟨(romWord_poll_iff _ _).mp h, rfl⟩⟩
  | read c => exact ⟨_, exec_read_next_iff.mpr ⟨(romWord_read_iff _ _).mp h, rfl⟩⟩
  | clr c => exact ⟨_, exec_clr_next_iff.mpr ⟨(romWord_clr_iff _ _).mp h, rfl⟩⟩
  | ibrt => exact ⟨_, exec_ibrt_next_iff.mpr ⟨(romWord_ibrt_iff _).mp h, rfl⟩⟩
  | ipwr => exact ⟨_, exec_ipwr_next_iff.mpr ⟨(romWord_ipwr_iff _).mp h, rfl⟩⟩
  | ihue => exact ⟨_, exec_ihue_next_iff.mpr ⟨(romWord_ihue_iff _).mp h, rfl⟩⟩
  | rgb => exact ⟨_, exec_rgb_next_iff.mpr ⟨(romWord_rgb_iff _).mp h, rfl⟩⟩

/-- A handler operation of the instance completes. -/
theorem exec_handler_completes {i : Instr} {s : State} (hi : i.context = .handler) (hw : i.wf s.cfg = true) :
    ∃ t, exec i s = .next t := by
  cases i with
  | edge c => exact ⟨_, exec_edge_next_iff.mpr ⟨mode_dual (by simpa [Instr.wf] using hw), rfl⟩⟩
  | chg => exact ⟨_, exec_chg_next_iff.mpr rfl⟩
  | poll _ | read _ | clr _ | ibrt | ipwr | ihue | rgb => cases hi

/-- The main context completes at every phase of the ROM. -/
theorem mainTurn_completes {s : State} (h : s.phase.toNat ≤ 12) : ∃ t, mainTurn s = .next t := by
  have hlen : s.phase.toNat < romTable.length := Nat.lt_succ_of_le h
  obtain ⟨i, hi, hw⟩ := romWord_cases (p := s.phase) (List.getElem?_eq_getElem hlen)
  have hr : romWord s.phase = some (encode i) := (List.getElem?_eq_getElem hlen).trans (congrArg some hw)
  rw [mainTurn_of_rom hi hr]
  exact exec_main_completes hi hr

/-- Settles O45: directives, turns of the main context and the lines the hardware can issue all complete. -/
theorem neverStuck : Obligations.NeverStuck := by
  intro s hs hline
  cases hsch : s.sched with
  | nil =>
    rw [step_unscheduled hsch]
    exact mainTurn_completes hs.phase_le
  | cons e rest =>
    rw [step_scheduled hsch]
    cases e with
    | rst | time _ | tick _ | sig _ _ => exact ⟨_, rfl⟩
    | main => exact mainTurn_completes (hs.withSched rest).phase_le
    | line w =>
      obtain ⟨i, hd, hrom⟩ := hline w rest hsch
      obtain ⟨hw, rfl⟩ := decode_sound hd
      change ∃ t, runWord (encode i) (s.withSched rest) = .next t
      rw [runWord_ok (s := s.withSched rest) hd]
      cases hi : i.context with
      | handler => exact exec_handler_completes hi hw
      | main => exact exec_main_completes hi (hrom hi)

end Sys2Proof.Machine
end

section
/-! PROOFS. The outputs follow DerivedState (`42_interpret.md` section 5, `43_color.md` section 3). -/

namespace Sys2Proof.Machine

section

variable {s t : State}

/-- `Shown` speaks of DerivedState, the outputs and `phase` only. -/
theorem Shown.congr (h : Shown s) (hbri : t.bri = s.bri) (hpwr : t.pwr = s.pwr) (hhue : t.hue = s.hue)
    (hphase : t.phase = s.phase) (hob : t.outBri = s.outBri) (hop : t.outPwr = s.outPwr) (hr : t.outR = s.outR)
    (hg : t.outG = s.outG) (hb : t.outB = s.outB) : Shown t := by
  obtain ⟨h1, h2, h3, h4⟩ := h
  constructor <;> simpa only [hbri, hpwr, hhue, hphase, hob, hop, hr, hg, hb]

theorem Shown.withSched (h : Shown s) (l : List Event) : Shown (s.withSched l) :=
  h.congr rfl rfl rfl rfl rfl rfl rfl rfl rfl

theorem Shown.handlerEffect (h : Shown s) (c : Chan) : Shown (handlerEffect c s) := by
  obtain ⟨hbri, hpwr, hhue, -, hphase, hob, hop, hr, hg, hb⟩ := handlerEffect_keeps_main_fields c s
  exact h.congr hbri hpwr hhue hphase hob hop hr hg hb

/-- Before `RGB` the colours shown are those of the hue, wherever the sequencer goes on to. -/
theorem Shown.withPhase (h : Shown s) (hp : s.phase.toNat ≠ 12) (x : BitVec 4) : Shown (s.withPhase x) :=
  ⟨h.brightness_shown, h.power_on_shown, h.power_off_shown, fun _ => h.colour_shown hp⟩

theorem Shown.withCw (h : Shown s) (x : Word) : Shown (s.withCw x) :=
  h.congr rfl rfl rfl rfl rfl rfl rfl rfl rfl

theorem Shown.withUpd (h : Shown s) (c : Chan) (x : Bool) : Shown (s.withUpd c x) :=
  h.congr rfl rfl rfl rfl rfl rfl rfl rfl rfl

/-- The brightness register and its output are written together. -/
theorem Shown.withBrightness (h : Shown s) (x : Byte) : Shown ((s.withBri x).withOutBri x) :=
  ⟨rfl, h.power_on_shown, h.power_off_shown, h.colour_shown⟩

/-- The power class decides the output, and NO_SIGNAL asks nothing of it. -/
theorem Shown.withPower (h : Shown s) (x : Power) : Shown ((s.withPwr x).withOutPwr (powerLevel x s.outPwr)) where
  brightness_shown := h.brightness_shown
  power_on_shown hx := by
    obtain rfl : x = .on := hx
    rfl
  power_off_shown hx := by
    obtain rfl : x = .off := hx
    rfl
  colour_shown := h.colour_shown

/-- At the position of `RGB` the colours may lag behind the hue. -/
theorem Shown.withHue_before_rgb (h : Shown s) (x : BitVec 9) : Shown ((s.withHue x).withPhase 12) :=
  ⟨h.brightness_shown, h.power_on_shown, h.power_off_shown, fun h12 => absurd rfl h12⟩

/-- `RGB` brings the colours up to the hue. -/
theorem Shown.withColour (h : Shown s) (x : BitVec 4) : Shown ((s.withOutRgb (hueToRGB s.hue)).withPhase x) :=
  ⟨h.brightness_shown, h.power_on_shown, h.power_off_shown, fun _ => rfl⟩

/-- Every operation keeps the outputs showing DerivedState: only `IHUE` writes what is not shown at once, and it goes
on to `RGB`. -/
theorem Shown.exec {i : Instr} (h : Shown s) (ht : exec i s = .next t) : Shown t := by
  cases hi : i.context with
  | handler =>
    obtain ⟨c, -, rfl⟩ := exec_handler_next hi ht
    exact h.handlerEffect c
  | main =>
    cases i with
    | edge _ | chg => cases hi
    | poll c =>
      obtain ⟨hp, rfl⟩ := exec_poll_next_iff.mp ht
      exact h.withPhase (by rw [hp, BitVec.toNat_ofNat]; omega) _
    | read c =>
      obtain ⟨hp, rfl⟩ := exec_read_next_iff.mp ht
      exact (h.withCw _).withPhase (by rw [State.withCw_phase, hp, phase_toNat c (by omega)]; omega) _
    | clr c =>
      obtain ⟨hp, rfl⟩ := exec_clr_next_iff.mp ht
      exact (h.withUpd c false).withPhase (by rw [State.withUpd_phase, hp, phase_toNat c (by omega)]; omega) _
    | ibrt =>
      obtain ⟨hp, rfl⟩ := exec_ibrt_next_iff.mp ht
      exact (h.withBrightness _).withPhase (by simp [hp]) _
    | ipwr =>
      obtain ⟨hp, rfl⟩ := exec_ipwr_next_iff.mp ht
      exact (h.withPower _).withPhase (by simp [hp]) _
    | ihue =>
      obtain ⟨hp, rfl⟩ := exec_ihue_next_iff.mp ht
      rw [hp]
      exact h.withHue_before_rgb _
    | rgb =>
      obtain ⟨-, rfl⟩ := exec_rgb_next_iff.mp ht
      exact h.withColour 0

end

/-- Settles O44: a step other than `rst` moves an input, which is not spoken of, or executes an operation. -/
theorem outputsFollowDerivedState : Obligations.OutputsFollowDerivedState := by
  intro s t hs hrst ht
  obtain ⟨rest, ⟨hr, -⟩ | ⟨T, rfl⟩ | ⟨c, v, rfl⟩ | ⟨i, hx⟩⟩ := step_next ht
  · exact absurd hr (hrst rest)
  · exact hs.congr rfl rfl rfl rfl rfl rfl rfl rfl rfl
  · exact hs.congr rfl rfl rfl rfl rfl rfl rfl rfl rfl
  · exact (hs.withSched rest).exec hx

end Sys2Proof.Machine
end

section
/-! PROOFS. One operation, one directive, one step: words, places in the ROM, effects and refusals
(`30_encoding.md`, `40_capture.md`, `41_handoff.md`, `42_interpret.md`, `43_color.md`). -/

namespace Sys2Proof.Machine

/-- The word of an `opc` and a channel, as a number. -/
theorem op8_eq_ofNat (o : BitVec 4) (c : Chan) : op8 o c = BitVec.ofNat 8 (16 * o.toNat + 4 * c.val) := by
  rw [← op8_toNat, BitVec.ofNat_toNat, BitVec.setWidth_eq]

/-! Refusals (`30_encoding.md` section 4). -/

/-- No handler word stands in the ROM. -/
theorem romWord_ne_handler {i : Instr} (phase : BitVec 4) (hi : i.context = .handler) :
    romWord phase ≠ some (encode i) := by
  cases i with
  | edge c => revert phase c; decide
  | chg => revert phase; decide
  | poll _ | read _ | clr _ | ibrt | ipwr | ihue | rgb => cases hi

/-- Past the end of the ROM there is no word. -/
theorem romWord_outside {phase : BitVec 4} (h : 12 < phase.toNat) : romWord phase = none :=
  List.getElem?_eq_none h

/-- Settles O5: off the ROM by the sequencer's position, and the ROM holds main words only. -/
theorem mainWordOffRomRefused : Obligations.MainWordOffRomRefused := by
  refine ⟨fun i s hi hrom hp => ?_, fun i s hi hp => ?_, fun i phase hi => romWord_ne_handler phase hi⟩
  · rw [exec_off_rom hi hrom, if_pos hp]
  · rw [exec_off_rom hi (by simp [romWord_outside hp]), if_neg (Nat.not_le.mpr hp)]

theorem runWord_error {w : Byte} {s : State} {why : Reject} (h : decode s.cfg w = .error why) :
    runWord w s = .refused (.reservedWord why) := by
  simp [runWord, h]

/-- Settles O4: the fetch of a scheduled line stops at the decoder. -/
theorem reservedLineRefused : Obligations.ReservedLineRefused := fun s _ rest _ hs hw =>
  (step_scheduled hs).trans (runWord_error (s := s.withSched rest) hw)

/-! Reset (`10_state.md` section 9). -/

/-- Settles O7: the state after `rst` is a power-on state. -/
theorem resetOfTheRest : Obligations.ResetOfTheRest :=
  ⟨⟨rfl, rfl, rfl⟩, fun s => ⟨resetRegisters s, rfl, by simp [resetRegisters]⟩⟩

/-- Settles O8: `rst` reads nothing but the instance, the rest of the schedule and the inputs. -/
theorem rstIsPowerOn : Obligations.RstIsPowerOn := fun _ _ hs => step_scheduled hs

/-! The handlers (`40_capture.md` sections 2 and 3). -/

/-- Settles O9: refused on the change-only channel, elsewhere the capture step in its two arms. -/
theorem edgeOperation : Obligations.EdgeOperation := by
  refine fun s c => ⟨⟨op8_eq_ofNat 1 c, rfl⟩, fun hm => ?_, fun hm hs => ?_, fun hm hs => ?_⟩
  · exact exec_edge_reserved (mode_change hm)
  · exact exec_edge_next_iff.mpr ⟨mode_dual hm, (captureChannel_high hs).symm⟩
  · exact exec_edge_next_iff.mpr ⟨mode_dual hm, (captureChannel_low hs).symm⟩

/-- Settles O10: the change-only channel is `CHG_CH`, and its handler has three arms. -/
theorem chgOperation : Obligations.ChgOperation := by
  intro s c hm
  obtain rfl := mode_change hm
  refine ⟨⟨rfl, rfl⟩, fun hs => ?_, fun hs hl => ?_, fun hs hl => ?_⟩
  · exact exec_chg_next_iff.mpr (captureIfChanged_same hs).symm
  · exact exec_chg_next_iff.mpr (captureIfChanged_rising hs hl).symm
  · exact exec_chg_next_iff.mpr (captureIfChanged_falling hs hl).symm

/-! The handoff (`41_handoff.md` section 1). -/

/-- Settles O20: the two targets are 4c+1 and 4c+4. -/
theorem pollOperation : Obligations.PollOperation := fun _ c hp =>
  ⟨op8_eq_ofNat 4 c, (romWord_poll_iff _ c).mpr hp, exec_poll_set hp, exec_poll_clear hp⟩

/-- Settles O21: from 4c+1 to 4c+2, with the width latched. -/
theorem readOperation : Obligations.ReadOperation := fun _ c hp =>
  ⟨op8_eq_ofNat 5 c, (romWord_read_iff _ c).mpr hp, exec_read_at hp⟩

/-- Settles O22: from 4c+2 to 4c+3, with the flag cleared. -/
theorem clrOperation : Obligations.ClrOperation := fun _ c hp =>
  ⟨op8_eq_ofNat 6 c, (romWord_clr_iff _ c).mpr hp, exec_clr_at hp⟩

/-! The interpretations (`42_interpret.md` sections 2 to 4) and the colours (`43_color.md`). -/

/-- Settles O26: the two arms of the brightness policy. -/
theorem ibrtOperation : Obligations.IbrtOperation := by
  refine fun s hp => ⟨rfl, (romWord_ibrt_iff _).mpr hp, fun hw => ?_, fun hw => ?_⟩
  · exact exec_ibrt_next_iff.mpr ⟨hp, by rw [brightness_valid hw, hp]; rfl⟩
  · exact exec_ibrt_next_iff.mpr ⟨hp, by rw [brightness_invalid hw, hp]; rfl⟩

/-- Settles O27: the three arms of the power policy. -/
theorem ipwrOperation : Obligations.IpwrOperation := by
  refine fun s hp => ⟨rfl, (romWord_ipwr_iff _).mpr hp, fun hw => ?_, fun hw => ?_, fun hw => ?_⟩
  · exact exec_ipwr_next_iff.mpr ⟨hp, by rw [powerOf_on hw, hp]; rfl⟩
  · exact exec_ipwr_next_iff.mpr ⟨hp, by rw [powerOf_off hw.1 hw.2, hp]; rfl⟩
  · exact exec_ipwr_next_iff.mpr ⟨hp, by rw [powerOf_noSignal hw, hp]; rfl⟩

/-- Settles O28: the hue policy's map and its hold. -/
theorem ihueOperation : Obligations.IhueOperation := by
  refine fun s hp => ⟨rfl, (romWord_ihue_iff _).mpr hp, fun hw => ?_, fun hw => ?_⟩
  · exact exec_ihue_next_iff.mpr ⟨hp, by rw [hueOf_valid hw, hp]; rfl⟩
  · exact exec_ihue_next_iff.mpr ⟨hp, by rw [hueOf_invalid hw, hp]; rfl⟩

/-- The colours at both ends of the circle, where the hue wraps. -/
theorem hueToRGB_red {hue : BitVec 9} (h : hue = 360 ∨ hue = 0) : hueToRGB hue = ⟨255, 0, 0⟩ := by
  rcases h with rfl | rfl <;> rfl

theorem hueToRGB_cyan : hueToRGB 180 = ⟨0, 255, 255⟩ := by decide

/-- Settles O31: the effect of `RGB`, and the hue 360 wraps to red. -/
theorem rgbOperation : Obligations.RgbOperation := fun _ hp =>
  ⟨rfl, (romWord_rgb_iff _).mpr hp, exec_rgb_next_iff.mpr ⟨hp, rfl⟩, hueToRGB_red, fun h => h ▸ hueToRGB_cyan⟩

/-- Settles O34: the references by evaluation; the second `RGB` finds the same hue. -/
theorem colourIdempotentAndReferenced : Obligations.ColourIdempotentAndReferenced := by
  refine ⟨by decide, fun s t h => ?_⟩
  obtain ⟨-, rfl⟩ := exec_rgb_next_iff.mp h
  exact ⟨rfl, exec_rgb_next_iff.mpr ⟨rfl, rfl⟩⟩

/-- Settles O33: the angle is taken modulo 360. -/
theorem hueWraps : Obligations.HueWraps := by
  intro hue h
  have hsub : (hue - 360).toNat = hue.toNat - 360 := BitVec.toNat_sub_of_le h
  simp only [hueToRGB, hsub, HUE_MAX, ← Nat.mod_eq_sub_mod h]

/-- Every row of the sector table has a full level and a dark one. -/
theorem sectorLevels_full_and_dark (sector m : Nat) :
    ((sectorLevels sector m).r = 255 ∨ (sectorLevels sector m).g = 255 ∨ (sectorLevels sector m).b = 255) ∧
      ((sectorLevels sector m).r = 0 ∨ (sectorLevels sector m).g = 0 ∨ (sectorLevels sector m).b = 0) := by
  have hfull : levelFull = 255 := rfl
  unfold sectorLevels
  split <;> simp [hfull]

/-- Settles O35: every colour is a row of the sector table. -/
theorem colourFullAndDark : Obligations.ColourFullAndDark := fun _ => sectorLevels_full_and_dark _ _

/-! The step (`30_encoding.md` section 6). -/

/-- Settles O36: each way a word comes to be run decodes it. -/
theorem stepRunsDecoded : Obligations.StepRunsDecoded := by
  refine ⟨fun s w rest i hs hd => ?_, fun s w rest i hs hw hd => ?_, fun s w i hs hw hd => ?_⟩
  · exact (step_scheduled hs).trans (runWord_ok (s := s.withSched rest) hd)
  · have hrun := runWord_ok (s := s.withSched rest) hd
    exact (step_scheduled hs).trans ((mainTurn_rom (s := s.withSched rest) hw).trans hrun)
  · exact (step_unscheduled hs).trans ((mainTurn_rom hw).trans (runWord_ok hd))

/-- Settles O37; `.tick` adds in the clock's width. -/
theorem environmentMovesInputsOnly : Obligations.EnvironmentMovesInputsOnly := by
  refine fun s rest => ⟨fun t hs => step_scheduled hs, fun d hs => ?_, fun c v hs => step_scheduled hs⟩
  have hadd : BitVec.ofNat 32 (s.T.toNat + d) = s.T + BitVec.ofNat 32 d := by
    rw [BitVec.ofNat_add, BitVec.ofNat_toNat, BitVec.setWidth_eq]
  rw [hadd]
  exact step_scheduled hs

end Sys2Proof.Machine
end

section
/-! PROOFS. The register table: numbers and widths, the write columns and the read columns (`10_state.md` section 6). -/

namespace Sys2Proof.Machine

theorem powerCode_lt (x : Power) : powerCode x < 4 := by cases x <;> decide

/-- Settles O41: by the register. -/
theorem registerNumbersName : Obligations.RegisterNumbersName := by
  refine ⟨fun n r => ⟨fun h => ?_, ?_⟩, fun s r => ?_⟩
  · unfold Reg.ofNumber at h
    split at h <;> cases h <;> rfl
  · rintro rfl
    cases r with
    | est c | lw c | upd c => fin_cases c <;> rfl
    | _ => rfl
  · cases r with
    | est | lw | bri | hue | cw | phase | outBri | outR | outG | outB => exact BitVec.isLt _
    | upd | ll | outPwr => exact Bool.toNat_lt _
    | pwr => exact powerCode_lt _

/-! The columns of a channel's handler, in either mode. -/

section

variable (p : Params) (c : Chan)

theorem mayWrite_handlerOf_iff (r : Reg) : mayWrite p (handlerOf p c) r = true ↔
    r = .est c ∨ r = .lw c ∨ r = .upd c ∨ (r = .ll ∧ p.mode c = .change) := by
  cases hm : p.mode c with
  | dual => cases r <;> simp [handlerOf, hm, mayWrite]
  | change =>
    obtain rfl := mode_change hm
    cases r <;> simp [handlerOf, hm, mayWrite]

theorem mayRead_handlerOf_est : mayRead p (handlerOf p c) (.est c) = true := by
  cases hm : p.mode c with
  | dual => simp [handlerOf, hm, mayRead]
  | change =>
    obtain rfl := mode_change hm
    simp [handlerOf, hm, mayRead]

theorem mayRead_handlerOf_ll (hm : p.mode c = .change) : mayRead p (handlerOf p c) .ll = true := by
  simp [handlerOf, hm, mayRead]

theorem sampledChannel_handlerOf : sampledChannel p (handlerOf p c) = some c := by
  cases hm : p.mode c with
  | dual => simp [handlerOf, hm, sampledChannel]
  | change =>
    obtain rfl := mode_change hm
    simp [handlerOf, hm, sampledChannel]

end

/-! The frame. -/

/-- A handler keeps every register outside its column. -/
theorem handlerEffect_keeps_reg {c : Chan} {s : State} {r : Reg} (hr : mayWrite s.cfg (handlerOf s.cfg c) r = false) :
    (handlerEffect c s).reg r = s.reg r := by
  obtain ⟨e, w, u, l, hf, hl⟩ := handlerEffect_frame c s
  rw [hf]
  rw [← Bool.not_eq_true, mayWrite_handlerOf_iff] at hr
  push Not at hr
  obtain ⟨hest, hlw, hupd, hll⟩ := hr
  cases r with
  | est d => exact congrArg BitVec.toNat (PerChan.get_set_ne fun h => hest (h ▸ rfl))
  | lw d => exact congrArg BitVec.toNat (PerChan.get_set_ne fun h => hlw (h ▸ rfl))
  | upd d => exact congrArg Bool.toNat (PerChan.get_set_ne fun h => hupd (h ▸ rfl))
  | ll => exact congrArg Bool.toNat (hl ((mode_cases s.cfg c).resolve_right (hll rfl)))
  | _ => rfl

/-- A main operation keeps every register outside its column. -/
theorem exec_main_keeps_reg {i : Instr} {s t : State} {r : Reg} (hi : i.context = .main) (h : exec i s = .next t)
    (hr : mayWrite s.cfg i r = false) : t.reg r = s.reg r := by
  cases i with
  | edge _ | chg => cases hi
  | poll _ =>
    obtain ⟨-, rfl⟩ := exec_poll_next_iff.mp h
    cases r with
    | phase => cases hr
    | _ => rfl
  | read _ =>
    obtain ⟨-, rfl⟩ := exec_read_next_iff.mp h
    cases r with
    | cw | phase => cases hr
    | _ => rfl
  | clr c =>
    obtain ⟨-, rfl⟩ := exec_clr_next_iff.mp h
    cases r with
    | upd d => exact congrArg Bool.toNat (PerChan.get_set_ne (of_decide_eq_false hr))
    | phase => cases hr
    | _ => rfl
  | ibrt =>
    obtain ⟨-, rfl⟩ := exec_ibrt_next_iff.mp h
    cases r with
    | bri | outBri | phase => cases hr
    | _ => rfl
  | ipwr =>
    obtain ⟨-, rfl⟩ := exec_ipwr_next_iff.mp h
    cases r with
    | pwr | outPwr | phase => cases hr
    | _ => rfl
  | ihue =>
    obtain ⟨-, rfl⟩ := exec_ihue_next_iff.mp h
    cases r with
    | hue | phase => cases hr
    | _ => rfl
  | rgb =>
    obtain ⟨-, rfl⟩ := exec_rgb_next_iff.mp h
    cases r with
    | outR | outG | outB | phase => cases hr
    | _ => rfl

/-- Settles O39: by the operation's context. -/
theorem operationsWriteOnlyTheirRegisters : Obligations.OperationsWriteOnlyTheirRegisters := by
  intro i s t h
  obtain ⟨hcfg, hsched, hT, hsig⟩ := exec_keeps_inputs h
  refine ⟨fun r hr => ?_, hT, hsig, hcfg, hsched⟩
  cases hi : i.context with
  | handler =>
    obtain ⟨c, rfl, rfl⟩ := exec_handler_next hi h
    exact handlerEffect_keeps_reg hr
  | main => exact exec_main_keeps_reg hi h hr

/-! The read columns. -/

/-- Register r, which s and s' held, now has one value in t and t', or is left alone in both. -/
def Lockstep (s s' t t' : State) (r : Reg) : Prop :=
  t.reg r = t'.reg r ∨ (t.reg r = s.reg r ∧ t'.reg r = s'.reg r)

/-- The registers of channel c. -/
def Reg.ofChannel (c : Chan) (r : Reg) : Prop := r = .est c ∨ r = .lw c ∨ r = .upd c

theorem bool_eq_of_toNat_eq {a b : Bool} (h : a.toNat = b.toNat) : a = b := by
  rw [← Bool.ofNat_toNat a, h, Bool.ofNat_toNat]

section

variable {c : Chan} {s s' : State}

/-- The capture step latches the clock, or publishes from the start time, in both states alike. -/
theorem captureChannel_lockstep (hi : SameInputs c s s') (hest : s.est.get c = s'.est.get c) {r : Reg}
    (hr : r.ofChannel c) : Lockstep s s' (captureChannel c s) (captureChannel c s') r := by
  unfold Lockstep
  cases hs : s'.sig.get c with
  | true =>
    rw [captureChannel_high hs, captureChannel_high (hi.sig.trans hs)]
    rcases hr with rfl | rfl | rfl <;> simp [State.reg, hi.now]
  | false =>
    rw [captureChannel_low hs, captureChannel_low (hi.sig.trans hs)]
    rcases hr with rfl | rfl | rfl <;> simp [State.reg, hi.now, hest]

theorem captureChannel_ll (c : Chan) (s : State) : (captureChannel c s).ll = s.ll := rfl

/-- The change-only handler ignores the level in both states, or captures and remembers it in both. -/
theorem captureIfChanged_lockstep (hi : SameInputs c s s') (hest : s.est.get c = s'.est.get c) (hll : s.ll = s'.ll)
    {r : Reg} (hr : r.ofChannel c ∨ r = .ll) :
    Lockstep s s' (captureIfChanged c s) (captureIfChanged c s') r := by
  simp only [captureIfChanged, hi.sig, hll]
  split
  · exact .inr ⟨rfl, rfl⟩
  · rcases hr with hr | rfl
    · have h := captureChannel_lockstep (s := s.withLl (s'.sig.get c)) (s' := s'.withLl (s'.sig.get c))
        ⟨hi.cfg, hi.T, hi.sig⟩ hest hr
      rcases hr with rfl | rfl | rfl <;> exact h
    · exact .inl (by simp [State.reg, captureChannel_ll])

theorem handlerEffect_lockstep (hi : SameInputs c s s') (hest : s.est.get c = s'.est.get c)
    (hll : s.cfg.mode c = .change → s.ll = s'.ll) {r : Reg} (hr : mayWrite s.cfg (handlerOf s.cfg c) r = true) :
    Lockstep s s' (handlerEffect c s) (handlerEffect c s') r := by
  rw [mayWrite_handlerOf_iff] at hr
  rcases mode_cases s.cfg c with hm | hm <;> simp only [handlerEffect, ← hi.cfg, hm]
  · exact captureChannel_lockstep hi hest (by simpa [Reg.ofChannel, hm] using hr)
  · exact captureIfChanged_lockstep hi hest (hll hm) (by simpa [Reg.ofChannel, hm, or_assoc] using hr)

end

/-- A main operation that completes in both states stands at one position, and writes from what it reads. -/
theorem exec_main_lockstep {i : Instr} {s s' t t' : State} {r : Reg} (hi : i.context = .main)
    (hread : ∀ r, mayRead s.cfg i r = true → s.reg r = s'.reg r) (h : exec i s = .next t) (h' : exec i s' = .next t')
    (hr : mayWrite s.cfg i r = true) : Lockstep s s' t t' r := by
  cases i with
  | edge _ | chg => cases hi
  | poll c =>
    obtain ⟨hp, rfl⟩ := exec_poll_next_iff.mp h
    obtain ⟨hp', rfl⟩ := exec_poll_next_iff.mp h'
    have hu : s.upd.get c = s'.upd.get c := bool_eq_of_toNat_eq (hread (.upd c) (by simp [mayRead]))
    cases r with
    | phase => exact .inl (by simp [State.reg, hp, hp', hu])
    | _ => cases hr
  | read c =>
    obtain ⟨hp, rfl⟩ := exec_read_next_iff.mp h
    obtain ⟨hp', rfl⟩ := exec_read_next_iff.mp h'
    cases r with
    | cw => exact .inl (hread (.lw c) (by simp [mayRead]))
    | phase => exact .inl (by simp [State.reg, hp, hp'])
    | _ => cases hr
  | clr c =>
    obtain ⟨hp, rfl⟩ := exec_clr_next_iff.mp h
    obtain ⟨hp', rfl⟩ := exec_clr_next_iff.mp h'
    cases r with
    | upd d =>
      obtain rfl : d = c := of_decide_eq_true hr
      exact .inl (by simp [State.reg])
    | phase => exact .inl (by simp [State.reg, hp, hp'])
    | _ => cases hr
  | ibrt =>
    obtain ⟨hp, rfl⟩ := exec_ibrt_next_iff.mp h
    obtain ⟨hp', rfl⟩ := exec_ibrt_next_iff.mp h'
    have hcw : s.cw = s'.cw := BitVec.eq_of_toNat_eq (hread .cw rfl)
    cases r with
    | bri | outBri | phase => exact .inl (by simp [State.reg, hp, hp', hcw])
    | _ => cases hr
  | ipwr =>
    obtain ⟨hp, rfl⟩ := exec_ipwr_next_iff.mp h
    obtain ⟨hp', rfl⟩ := exec_ipwr_next_iff.mp h'
    have hcw : s.cw = s'.cw := BitVec.eq_of_toNat_eq (hread .cw rfl)
    cases r with
    | pwr | phase => exact .inl (by simp [State.reg, hp, hp', hcw])
    | outPwr =>
      by_cases hc : powerOf s'.cw.toNat = .noSignal
      · exact .inr (by simp [State.reg, hcw, hc])
      · exact .inl (by simp [State.reg, hcw, powerLevel_congr hc s.outPwr s'.outPwr])
    | _ => cases hr
  | ihue =>
    obtain ⟨hp, rfl⟩ := exec_ihue_next_iff.mp h
    obtain ⟨hp', rfl⟩ := exec_ihue_next_iff.mp h'
    have hcw : s.cw = s'.cw := BitVec.eq_of_toNat_eq (hread .cw rfl)
    cases r with
    | hue =>
      cases hv : hueOf s'.cw.toNat with
      | none => exact .inr (by simp [State.reg, hcw, hv])
      | some x => exact .inl (by simp [State.reg, hcw, hv])
    | phase => exact .inl (by simp [State.reg, hp, hp'])
    | _ => cases hr
  | rgb =>
    obtain ⟨-, rfl⟩ := exec_rgb_next_iff.mp h
    obtain ⟨-, rfl⟩ := exec_rgb_next_iff.mp h'
    have hhue : s.hue = s'.hue := BitVec.eq_of_toNat_eq (hread .hue rfl)
    cases r with
    | outR | outG | outB | phase => exact .inl (by simp [State.reg, hhue])
    | _ => cases hr

/-- Settles O40: by the operation's context. -/
theorem operationsDependOnlyOnTheirReads : Obligations.OperationsDependOnlyOnTheirReads := by
  intro i s s' t t' hcfg hread hsample h h' r hr
  cases hi : i.context with
  | handler =>
    obtain ⟨c, rfl, rfl⟩ := exec_handler_next hi h
    obtain rfl : handlerEffect c s' = t' := by simpa [hcfg, exec_handlerOf] using h'
    obtain ⟨hsig, hT⟩ := hsample c (sampledChannel_handlerOf s.cfg c)
    have hest : s.est.get c = s'.est.get c := BitVec.eq_of_toNat_eq (hread _ (mayRead_handlerOf_est s.cfg c))
    have hll (hm : s.cfg.mode c = .change) : s.ll = s'.ll :=
      bool_eq_of_toNat_eq (hread _ (mayRead_handlerOf_ll s.cfg c hm))
    exact handlerEffect_lockstep ⟨hcfg, hT, hsig⟩ hest hll hr
  | main => exact exec_main_lockstep hi hread h h' hr

end Sys2Proof.Machine
end

section
/-! PROOFS. The pure functions: the capture function at every width (`40_capture.md` sections 4 and 5), the linear map
and the policies (`42_interpret.md` sections 1 and 5), the colour converter (`43_color.md` sections 1 and 2). -/

namespace Sys2Proof.Machine

/-! Capture. -/

/-- The difference of two words, as an integer. -/
theorem toNat_sub_cast {n : Nat} (x y : BitVec n) : ((x - y).toNat : Int) = ((x.toNat : Int) - y.toNat) % 2 ^ n := by
  have hy : y.toNat ≤ 2 ^ n := y.isLt.le
  rw [BitVec.toNat_sub, Int.natCast_mod, Nat.cast_add, Nat.cast_sub hy, Nat.cast_pow, Nat.cast_ofNat,
    show (2 : Int) ^ n - y.toNat + x.toNat = x.toNat - y.toNat + 2 ^ n by ring, Int.add_emod_right]

/-- Settles O11: a LOW capture publishes the difference, and the start cancels. -/
theorem widthIsModularDifference : Obligations.WidthIsModularDifference := by
  refine fun n est lw t upd => ⟨toNat_sub_cast t est, fun w => ?_⟩
  change (est + BitVec.ofNat n w - est).toNat = w % 2 ^ n
  rw [add_sub_cancel_left, BitVec.toNat_ofNat]

theorem edgesOf_cons {n : Nat} (p : BitVec n × BitVec n) (ps : List (BitVec n × BitVec n)) :
    edgesOf (p :: ps) = (p.1, true) :: (p.2, false) :: edgesOf ps := rfl

/-- A pulse's rise latches the start and emits nothing, its fall emits the width and keeps the start. -/
theorem emissions_pulse {n : Nat} (est lw rise fall : BitVec n) (upd : Bool) (rest : List (BitVec n × Bool)) :
    emissions est lw upd ((rise, true) :: (fall, false) :: rest) =
      (fall - rise) :: emissions rise (fall - rise) true rest := rfl

/-- Settles O16: by induction over the train, from any registers. -/
theorem exactlyOncePerPulse : Obligations.ExactlyOncePerPulse := by
  intro n pulses
  induction pulses with
  | nil => exact fun _ _ _ => rfl
  | cons p ps ih =>
    intro est lw upd
    rw [edgesOf_cons, emissions_pulse, ih, List.map_cons]

/-! The linear map. -/

/-- Settles O25: over a common denominator the printed formula is a quotient of naturals. -/
theorem linearMapIsExact : Obligations.LinearMapIsExact := by
  intro w inMin inMax outMin outMax hw _ hin hout
  have hq : ((w : ℚ) - inMin) / ((inMax : ℚ) - inMin) * ((outMax : ℚ) - outMin) =
      (((w - inMin) * (outMax - outMin) : ℕ) : ℚ) / ((inMax - inMin : ℕ) : ℚ) := by
    rw [Nat.cast_mul, Nat.cast_sub hw, Nat.cast_sub hout, Nat.cast_sub hin.le, div_mul_eq_mul_div]
  rw [hq, Int.floor_add_natCast, Rat.floor_natCast_div_natCast]
  rfl

/-! The policies in the valid range. -/

theorem brightness_toNat {w : Nat} (h : 1000 ≤ w ∧ w ≤ 2000) : (brightness w).toNat = (w - 1000) * 255 / 1000 := by
  rw [brightness_valid h, BitVec.toNat_ofNat]
  omega

theorem hueOf_toNat {w : Nat} (h : 1000 ≤ w ∧ w ≤ 2000) :
    ∃ x, hueOf w = some x ∧ x.toNat = (w - 1000) * 360 / 1000 := by
  refine ⟨_, hueOf_valid h, ?_⟩
  rw [BitVec.toNat_ofNat]
  omega

/-- Settles O29: both policies are quotients by a constant, monotonic in the width. -/
theorem mappingsMonotonic : Obligations.MappingsMonotonic := by
  refine ⟨fun a b ha hab hb => ⟨?_, ?_⟩, by decide, by decide, by decide, by decide, by decide⟩
  · rw [brightness_toNat ⟨ha, hab.trans hb⟩, brightness_toNat ⟨ha.trans hab, hb⟩]
    gcongr
  · obtain ⟨x, hx, hxv⟩ := hueOf_toNat ⟨ha, hab.trans hb⟩
    obtain ⟨y, hy, hyv⟩ := hueOf_toNat ⟨ha.trans hab, hb⟩
    refine ⟨x, y, hx, hy, ?_, hueOf_le hy⟩
    rw [hxv, hyv]
    gcongr

/-! The colour converter. -/

/-- The sector table of `43_color.md` R162 over the rationals: `idealLevels` in terms of its two local values. -/
def idealSectorLevels (sector : ℤ) (f : ℚ) : ℚ × ℚ × ℚ :=
  if sector = 0 then (1, f, 0)
  else if sector = 1 then (1 - f, 1, 0)
  else if sector = 2 then (0, 1, f)
  else if sector = 3 then (0, 1 - f, 1)
  else if sector = 4 then (f, 0, 1)
  else (1, 0, 1 - f)

theorem idealLevels_eq (hue : ℚ) :
    idealLevels hue = idealSectorLevels (⌊hue / 60⌋ % 6) (hue / 60 - (⌊hue / 60⌋ % 6 : ℤ)) := rfl

/-- m degrees into sector q of the first turn. -/
theorem idealLevels_of_sector {q m : Nat} (hq : q < 6) (hm : m < 60) :
    idealLevels (60 * q + m : ℕ) = idealSectorLevels q (m / 60) := by
  have hfloor : ⌊((60 * q + m : ℕ) : ℚ) / 60⌋ % 6 = q := by
    rw [show (60 : ℚ) = (60 : ℕ) from rfl, Rat.floor_natCast_div_natCast]
    omega
  rw [idealLevels_eq, hfloor]
  congr 1
  push_cast
  ring

/-- The three levels of the exact algorithm, scaled and truncated. -/
def scaledFloor (x : ℚ × ℚ × ℚ) : ℤ × ℤ × ℤ := (⌊x.1 * 255⌋, ⌊x.2.1 * 255⌋, ⌊x.2.2 * 255⌋)

/-- The three levels of a colour as integers. -/
def levels (x : Rgb) : ℤ × ℤ × ℤ := (x.r.toNat, x.g.toNat, x.b.toNat)

theorem floor_rising {m : Nat} (hm : m < 60) : ⌊(m : ℚ) / 60 * 255⌋ = ((levelF m).toNat : ℤ) := by
  have hq : (m : ℚ) / 60 * 255 = ((m * 255 : ℕ) : ℚ) / (60 : ℕ) := by
    push_cast
    ring
  rw [hq, Rat.floor_natCast_div_natCast, levelF_toNat hm, Int.natCast_div]

theorem floor_falling {m : Nat} (hm : m < 60) : ⌊(1 - (m : ℚ) / 60) * 255⌋ = ((levelQ m).toNat : ℤ) := by
  have hq : (1 - (m : ℚ) / 60) * 255 = (((60 - m) * 255 : ℕ) : ℚ) / (60 : ℕ) := by
    push_cast [hm.le]
    ring
  rw [hq, Rat.floor_natCast_div_natCast, levelQ_toNat hm, Int.natCast_div]

/-- The integer sector table is the rational one, scaled and truncated. -/
theorem levels_sectorLevels {q m : Nat} (hq : q < 6) (hm : m < 60) :
    levels (sectorLevels q m) = scaledFloor (idealSectorLevels q (m / 60)) := by
  have hfull : levelFull.toNat = 255 := rfl
  interval_cases q <;>
    simp [levels, scaledFloor, sectorLevels, idealSectorLevels, floor_rising hm, floor_falling hm, hfull]

theorem hueToRGB_eq (hue : BitVec 9) :
    hueToRGB hue = sectorLevels (hue.toNat % 360 / 60) (hue.toNat % 360 % 60) := rfl

/-- The whole converter against the whole algorithm: a hue below 360 lies in one of the sectors 0 to 5. -/
theorem levels_hueToRGB {hue : BitVec 9} (h : hue.toNat < 360) :
    levels (hueToRGB hue) = scaledFloor (idealLevels hue.toNat) := by
  have hsplit : 60 * (hue.toNat / 60) + hue.toNat % 60 = hue.toNat := Nat.div_add_mod _ _
  have hm : hue.toNat % 60 < 60 := Nat.mod_lt _ (by omega)
  rw [hueToRGB_eq, Nat.mod_eq_of_lt h, levels_sectorLevels (by omega) hm, ← idealLevels_of_sector (by omega) hm, hsplit]

/-- Settles O32: below 360 sector by sector; at 360 the printed steps stay in sector 0, with f = 6. -/
theorem hueToRgbIsExact : Obligations.HueToRgbIsExact := by
  refine ⟨fun hue h => ?_, ?_⟩
  · simpa [levels, scaledFloor] using levels_hueToRGB h
  · norm_num [idealLevels_eq, idealSectorLevels]

end Sys2Proof.Machine
end

section
/-! PROOFS. Traces of handlers and main turns: pulses, repeated and first notifications, handlers of two channels
(`40_capture.md` section 5), the races of the handoff (`41_handoff.md` section 2), start-up (`70_reset_and_hazards.md`
section 3). -/

namespace Sys2Proof.Machine

/-! Running a trace. -/

theorem runTrace_append {es : List Event} {s t : State} (h : runTrace es s = .next t) (es' : List Event) :
    runTrace (es ++ es') s = runTrace es' t := by
  induction es generalizing s with
  | nil =>
    cases h
    rfl
  | cons e es ih =>
    cases ha : act e s with
    | next u =>
      rw [runTrace_cons_next ha] at h
      rw [List.cons_append, runTrace_cons_next ha, ih h]
    | fault r => simp [runTrace, ha] at h
    | refused r => simp [runTrace, ha] at h

theorem runTrace_notify {c : Chan} {p : Params} {s : State} (h : s.cfg = p) (es : List Event) :
    runTrace (notify p c :: es) s = runTrace es (handlerEffect c s) :=
  runTrace_cons_next (act_notify_of_cfg c h)

theorem runTrace_sig (c : Chan) (v : Bool) (es : List Event) (s : State) :
    runTrace (.sig c v :: es) s = runTrace es (s.withSig c v) := rfl

theorem runTrace_tick (d : Nat) (es : List Event) (s : State) :
    runTrace (.tick d :: es) s = runTrace es (s.withT (s.T + BitVec.ofNat 32 d)) := rfl

theorem runTrace_rst (es : List Event) (s : State) : runTrace (.rst :: es) s = runTrace es (resetRegisters s) := rfl

/-! The turns of the main context in channel c's group of the ROM. -/

/-- `POLL c` has seen the flag. -/
def polled (c : Chan) (s : State) : State := s.withPhase (BitVec.ofNat 4 (4 * c.val + 1))

/-- `POLL c` has found the flag clear. -/
def skipped (c : Chan) (s : State) : State := s.withPhase (BitVec.ofNat 4 (4 * c.val + 4))

/-- `READ c` has run. -/
def latched (c : Chan) (s : State) : State := (s.withCw (s.lw.get c)).withPhase (BitVec.ofNat 4 (4 * c.val + 2))

/-- `CLR c` has run. -/
def cleared (c : Chan) (s : State) : State := (s.withUpd c false).withPhase (BitVec.ofNat 4 (4 * c.val + 3))

/-! What they leave alone, and what they write. -/

section

variable (c : Chan) (s : State)

@[simp] theorem polled_lw : (polled c s).lw = s.lw := rfl
@[simp] theorem polled_phase : (polled c s).phase = BitVec.ofNat 4 (4 * c.val + 1) := rfl
@[simp] theorem polled_cfg : (polled c s).cfg = s.cfg := rfl
@[simp] theorem polled_est : (polled c s).est = s.est := rfl
@[simp] theorem polled_now : (polled c s).now = s.now := rfl

@[simp] theorem skipped_lw : (skipped c s).lw = s.lw := rfl
@[simp] theorem skipped_phase : (skipped c s).phase = BitVec.ofNat 4 (4 * c.val + 4) := rfl

@[simp] theorem latched_lw : (latched c s).lw = s.lw := rfl
@[simp] theorem latched_cw : (latched c s).cw = s.lw.get c := rfl
@[simp] theorem latched_phase : (latched c s).phase = BitVec.ofNat 4 (4 * c.val + 2) := rfl
@[simp] theorem latched_cfg : (latched c s).cfg = s.cfg := rfl
@[simp] theorem latched_est : (latched c s).est = s.est := rfl
@[simp] theorem latched_now : (latched c s).now = s.now := rfl

@[simp] theorem cleared_lw : (cleared c s).lw = s.lw := rfl
@[simp] theorem cleared_upd : (cleared c s).upd = s.upd.set c false := rfl
@[simp] theorem cleared_cw : (cleared c s).cw = s.cw := rfl
@[simp] theorem cleared_phase : (cleared c s).phase = BitVec.ofNat 4 (4 * c.val + 3) := rfl
@[simp] theorem cleared_cfg : (cleared c s).cfg = s.cfg := rfl
@[simp] theorem cleared_est : (cleared c s).est = s.est := rfl
@[simp] theorem cleared_now : (cleared c s).now = s.now := rfl

end

section

variable {c : Chan} {s : State} (es : List Event)

/-- A turn of the main context at a word of the ROM is that operation's meaning. -/
theorem runTrace_main {i : Instr} {t : State} (hi : i.context = .main) (hr : romWord s.phase = some (encode i))
    (ht : exec i s = .next t) : runTrace (.main :: es) s = runTrace es t :=
  runTrace_cons_next (show mainTurn s = .next t by rw [mainTurn_of_rom hi hr, ht])

theorem runTrace_main_poll_set (hp : s.phase = BitVec.ofNat 4 (4 * c.val)) (hu : s.upd.get c = true) :
    runTrace (.main :: es) s = runTrace es (polled c s) :=
  runTrace_main es (i := .poll c) rfl ((romWord_poll_iff _ c).mpr hp) (exec_poll_set hp hu)

theorem runTrace_main_poll_clear (hp : s.phase = BitVec.ofNat 4 (4 * c.val)) (hu : s.upd.get c = false) :
    runTrace (.main :: es) s = runTrace es (skipped c s) :=
  runTrace_main es (i := .poll c) rfl ((romWord_poll_iff _ c).mpr hp) (exec_poll_clear hp hu)

theorem runTrace_main_read (hp : s.phase = BitVec.ofNat 4 (4 * c.val + 1)) :
    runTrace (.main :: es) s = runTrace es (latched c s) :=
  runTrace_main es (i := .read c) rfl ((romWord_read_iff _ c).mpr hp) (exec_read_at hp)

theorem runTrace_main_clr (hp : s.phase = BitVec.ofNat 4 (4 * c.val + 2)) :
    runTrace (.main :: es) s = runTrace es (cleared c s) :=
  runTrace_main es (i := .clr c) rfl ((romWord_clr_iff _ c).mpr hp) (exec_clr_at hp)

end

/-! What a handler leaves in its own channel. -/

section

variable {c : Chan} {s : State}

@[simp] theorem handlerEffect_sig (c : Chan) (s : State) : (handlerEffect c s).sig = s.sig := by
  rw [handlerEffect_writes_own]

@[simp] theorem handlerEffect_cw (c : Chan) (s : State) : (handlerEffect c s).cw = s.cw := by
  rw [handlerEffect_writes_own]

/-- In `CHANGE` mode the level read is remembered. -/
theorem handlerEffect_remembers (hm : s.cfg.mode c = .change) : (handlerEffect c s).ll = s.sig.get c := by
  simp only [handlerEffect, hm, captureIfChanged]
  split
  · exact Eq.symm ‹_›
  · rfl

theorem handlerEffect_publishes_upd (h : publishes c s) : (handlerEffect c s).upd.get c = true := by
  obtain ⟨l, he⟩ := handlerEffect_publishes h
  simp [he]

theorem handlerEffect_publishes_lw (h : publishes c s) : (handlerEffect c s).lw.get c = s.now - s.est.get c := by
  obtain ⟨l, he⟩ := handlerEffect_publishes h
  simp [he]

/-- Publishing keeps the start time. -/
theorem handlerEffect_publishes_est (h : publishes c s) : (handlerEffect c s).est = s.est := by
  obtain ⟨l, he⟩ := handlerEffect_publishes h
  simp [he]

end

/-! A clean pulse. -/

/-- Channel c after one clean pulse of w microseconds. -/
def afterPulse (c : Chan) (w : Nat) (s : State) : State :=
  let s' := handlerEffect c (s.withSig c true)
  handlerEffect c ((s'.withT (s'.T + BitVec.ofNat 32 w)).withSig c false)

section

variable {c : Chan} {w : Nat} {s : State}

@[simp] theorem afterPulse_cfg : (afterPulse c w s).cfg = s.cfg := by simp [afterPulse]

@[simp] theorem afterPulse_T : (afterPulse c w s).T = s.T + BitVec.ofNat 32 w := by simp [afterPulse]

@[simp] theorem afterPulse_phase : (afterPulse c w s).phase = s.phase := by simp [afterPulse]

theorem runTrace_pulse {p : Params} (h : s.cfg = p) (es : List Event) :
    runTrace (pulse p c w ++ es) s = runTrace es (afterPulse c w s) := by
  let u := handlerEffect c (s.withSig c true)
  have hcfg : ((u.withT (u.T + BitVec.ofNat 32 w)).withSig c false).cfg = p := (handlerEffect_cfg _ _).trans h
  exact (runTrace_notify (s := s.withSig c true) h _).trans (runTrace_notify hcfg es)

/-- A clean pulse is published, from the clock reading at its rise to the one at its fall. -/
theorem afterPulse_publishes (hl : s.cfg.mode c = .change → s.ll = false) :
    (afterPulse c w s).upd.get c = true ∧ (afterPulse c w s).lw.get c = (afterPulse c w s).now - s.now :=
  ((measuring_of_rise hl).withT _).fall

/-- After a clean pulse the change-only channel remembers LOW. -/
theorem afterPulse_ll (hm : s.cfg.mode c = .change) : (afterPulse c w s).ll = false := by
  rw [afterPulse, handlerEffect_remembers (by simpa using hm)]
  simp

end

/-- Settles O12: the second pulse is published like the first, and `POLL` sees its flag. -/
theorem mostRecentWidthWins : Obligations.MostRecentWidthWins := by
  intro s c w1 gap w2 hp hl
  let u := (afterPulse c w1 s).withT ((afterPulse c w1 s).T + BitVec.ofNat 32 gap)
  have hcfg : u.cfg = s.cfg := afterPulse_cfg
  have hphase : (afterPulse c w2 u).phase = BitVec.ofNat 4 (4 * c.val) := by simpa [u] using hp
  have hnow : u.now = clockReading s.cfg.tick (s.T + BitVec.ofNat 32 (w1 + gap)) := by
    simp [u, State.now, BitVec.ofNat_add, add_assoc]
  obtain ⟨hupd, hlw⟩ := afterPulse_publishes (c := c) (w := w2) (s := u)
    fun hm => afterPulse_ll (by rwa [hcfg] at hm)
  have hpulses : runTrace (pulse s.cfg c w1 ++ [.tick gap] ++ pulse s.cfg c w2) s = .next (afterPulse c w2 u) := by
    rw [List.append_assoc, runTrace_pulse rfl, List.singleton_append, runTrace_tick,
      ← List.append_nil (pulse _ _ w2), runTrace_pulse hcfg]
    rfl
  have hmain := (runTrace_main_poll_set [.main] hphase hupd).trans (runTrace_main_read [] rfl)
  exact ⟨_, _, hpulses, hupd, hlw.trans (by rw [hnow]), hmain, rfl⟩

/-- Settles O14: the level is still LOW, so `DUAL` mode publishes again and `CHANGE` mode sees the remembered level. -/
theorem secondLowReading : Obligations.SecondLowReading := by
  intro s c d hpub
  let t := handlerEffect c s
  let u := t.withT (t.T + BitVec.ofNat 32 d)
  have hlow : u.sig.get c = false := by simpa [u, t] using hpub.1
  have hcfg : u.cfg = s.cfg := handlerEffect_cfg c s
  have hest : u.est = s.est := handlerEffect_publishes_est hpub
  refine ⟨t, handlerEffect c u, runTrace_notify rfl [], handlerEffect_publishes_lw hpub, runTrace_notify hcfg [],
    handlerEffect_raises (handlerEffect_publishes_upd hpub), fun hm => ?_, fun hm => ?_⟩
  · have hpub' : publishes c u := ⟨hlow, by simp [hcfg, hm]⟩
    rw [handlerEffect_publishes_lw hpub', hest]
    simp [State.now]
  · have hll : u.sig.get c = u.ll := by simpa [u, t] using (handlerEffect_remembers hm).symm
    have hsame : handlerEffect c u = u := by
      simp only [handlerEffect, hcfg, hm]
      exact captureIfChanged_same hll
    rw [hsame]
    rfl

/-! The error of a coarse clock. -/

/-- Two readings w microseconds apart differ by w, off by the two remainders. -/
theorem clockReading_sub (tick : Nat) (T : Word) (w : Nat) :
    clockReading tick (T + BitVec.ofNat 32 w) - clockReading tick T =
      BitVec.ofNat 32 w + BitVec.ofNat 32 (T.toNat % tick) -
        BitVec.ofNat 32 ((T + BitVec.ofNat 32 w).toNat % tick) := by
  simp only [clockReading]
  ring

theorem toNat_ofNat_modEq (n : Nat) : ((BitVec.ofNat 32 n).toNat : Int) ≡ n [ZMOD 2 ^ 32] := by
  push_cast [BitVec.toNat_ofNat]
  exact Int.mod_modEq _ _

theorem toNat_add_modEq (x y : Word) : ((x + y).toNat : Int) ≡ x.toNat + y.toNat [ZMOD 2 ^ 32] := by
  push_cast [BitVec.toNat_add]
  exact Int.mod_modEq _ _

theorem toNat_sub_modEq (x y : Word) : ((x - y).toNat : Int) ≡ x.toNat - y.toNat [ZMOD 2 ^ 32] := by
  rw [toNat_sub_cast]
  exact Int.mod_modEq _ _

/-- Settles O15: the two remainders are below `TICK`, and 0 when it is 1. -/
theorem pulseRoundTrip : Obligations.PulseRoundTrip := by
  intro s c w hwf hl
  have hrun : runTrace (pulse s.cfg c w) s = .next (afterPulse c w s) := by
    rw [← List.append_nil (pulse _ _ _), runTrace_pulse rfl]
    rfl
  obtain ⟨hupd, hlw⟩ := afterPulse_publishes (w := w) hl
  have hwidth : (afterPulse c w s).lw.get c =
      clockReading s.cfg.tick (s.T + BitVec.ofNat 32 w) - clockReading s.cfg.tick s.T := by
    simpa [State.now] using hlw
  refine ⟨_, hrun, hupd, ?_, fun htick => ?_⟩
  · have htick : 0 < s.cfg.tick := by
      simp only [Params.wf, Bool.and_eq_true, decide_eq_true_eq] at hwf
      exact hwf.1
    have hr := Nat.mod_lt s.T.toNat htick
    have hr' := Nat.mod_lt (s.T + BitVec.ofNat 32 w).toNat htick
    rw [hwidth, clockReading_sub]
    generalize s.T.toNat % s.cfg.tick = r at hr ⊢
    generalize (s.T + BitVec.ofNat 32 w).toNat % s.cfg.tick = r' at hr' ⊢
    refine ⟨(r : Int) - r', by rw [abs_lt]; omega, ?_⟩
    calc
      _ ≡ ((BitVec.ofNat 32 w + BitVec.ofNat 32 r).toNat : Int) - (BitVec.ofNat 32 r').toNat [ZMOD 2 ^ 32] :=
        toNat_sub_modEq _ _
      _ ≡ ((w : Int) + r) - r' [ZMOD 2 ^ 32] :=
        ((toNat_add_modEq _ _).trans ((toNat_ofNat_modEq w).add (toNat_ofNat_modEq r))).sub (toNat_ofNat_modEq r')
      _ = w + (r - r') := by ring
  · simp [hwidth, htick]

/-! Reset and the first notification. -/

@[simp] theorem resetRegisters_cfg (s : State) : (resetRegisters s).cfg = s.cfg := State.powerOn_cfg _ _ _ _

/-- After `rst` the notification of channel c finds the registers reset. -/
theorem runTrace_rst_notify (c : Chan) (s : State) (es : List Event) :
    runTrace (.rst :: notify s.cfg c :: es) s = runTrace es (handlerEffect c (resetRegisters s)) := by
  rw [runTrace_rst, runTrace_notify (resetRegisters_cfg s)]

section

variable {c : Chan} {s : State}

/-- After reset a `DUAL` channel is ready to publish. -/
theorem publishes_resetRegisters (hs : s.sig.get c = false) (hm : s.cfg.mode c = .dual) :
    publishes c (resetRegisters s) :=
  ⟨hs, by simp [resetRegisters, hm]⟩

/-- What it publishes is the clock reading: every start time is 0. -/
theorem handlerEffect_resetRegisters_dual (hs : s.sig.get c = false) (hm : s.cfg.mode c = .dual) :
    (handlerEffect c (resetRegisters s)).lw.get c = s.now := by
  rw [handlerEffect_publishes_lw (publishes_resetRegisters hs hm)]
  simp [resetRegisters, State.now]

/-- The change-only channel sees the level it remembers since reset. -/
theorem handlerEffect_resetRegisters_change (hs : s.sig.get c = false) (hm : s.cfg.mode c = .change) :
    handlerEffect c (resetRegisters s) = resetRegisters s := by
  simp only [handlerEffect, show (resetRegisters s).cfg.mode c = .change from hm]
  exact captureIfChanged_same hs

end

/-- Settles O17: after reset every start time is 0 and the remembered level is LOW. -/
theorem firstNotificationAfterReset : Obligations.FirstNotificationAfterReset := by
  intro s c hs
  refine ⟨handlerEffect c (resetRegisters s), runTrace_rst_notify c s [], fun hm => ⟨?_, ?_⟩, fun hm => ?_⟩
  · exact handlerEffect_resetRegisters_dual hs hm
  · exact handlerEffect_publishes_upd (publishes_resetRegisters hs hm)
  · exact handlerEffect_resetRegisters_change hs hm

/-! Handlers of two channels. -/

/-- The handler of d, after the handler of c has run: each writes what it would write alone. -/
theorem handlerEffect_handlerEffect {c d : Chan} (h : c ≠ d) (s : State) :
    handlerEffect d (handlerEffect c s) = { s with
      est := (s.est.set c ((handlerEffect c s).est.get c)).set d ((handlerEffect d s).est.get d)
      lw := (s.lw.set c ((handlerEffect c s).lw.get c)).set d ((handlerEffect d s).lw.get d)
      upd := (s.upd.set c ((handlerEffect c s).upd.get c)).set d ((handlerEffect d s).upd.get d)
      ll := if s.cfg.mode d = .change then (handlerEffect d s).ll
        else if s.cfg.mode c = .change then (handlerEffect c s).ll else s.ll } := by
  have hll (hd : s.cfg.mode d = .change) : (handlerEffect c s).ll = s.ll := by
    refine handlerEffect_keeps_ll ((mode_cases s.cfg c).resolve_right fun hc => h ?_)
    rw [mode_change hc, mode_change hd]
  obtain ⟨kest, klw, kupd⟩ := handlerEffect_keeps_other_channel (s := s) h.symm
  obtain ⟨est, lw, upd, ll⟩ := handlerEffect_congr (c := d) (s' := handlerEffect c s) (s := s)
    ⟨handlerEffect_cfg c s, handlerEffect_T c s, by rw [handlerEffect_sig]⟩ ⟨kest, klw, kupd, hll⟩
  have hd : (if s.cfg.mode d = .change then (handlerEffect d (handlerEffect c s)).ll else (handlerEffect c s).ll) =
      if s.cfg.mode d = .change then (handlerEffect d s).ll else (handlerEffect c s).ll := by
    split
    · exact ll ‹_›
    · rfl
  rw [handlerEffect_writes_own d (handlerEffect c s), est, lw, upd, handlerEffect_cfg, hd]
  rw [handlerEffect_writes_own c s]
  simp only [PerChan.get_set_self]
  congr 2
  split_ifs <;> rfl

/-- Settles O18: the two writes are of different channels, and at most one channel is `CHANGE`. -/
theorem handlersCommute : Obligations.HandlersCommute := by
  intro s c d h
  refine ⟨handlerEffect d (handlerEffect c s), ?_, ?_⟩
  · rw [runTrace_notify rfl, runTrace_notify (handlerEffect_cfg c s)]
    rfl
  · rw [runTrace_notify rfl, runTrace_notify (handlerEffect_cfg d s), handlerEffect_handlerEffect h,
      handlerEffect_handlerEffect h.symm]
    rw [PerChan.set_comm h, PerChan.set_comm h, PerChan.set_comm h]
    split_ifs with hd hc
    · exact absurd ((mode_change hd).trans (mode_change hc).symm) h
    · rfl
    · rfl
    · rfl

/-! The races of the handoff (`41_handoff.md` section 2). -/

section

variable {c : Chan} {s : State}

theorem publishes.polled (h : publishes c s) : publishes c (polled c s) := ⟨h.1, h.2⟩

theorem publishes.latched (h : publishes c s) : publishes c (latched c s) := ⟨h.1, h.2⟩

theorem publishes.cleared (h : publishes c s) : publishes c (cleared c s) := ⟨h.1, h.2⟩

/-- The publication falls before `POLL c`. -/
theorem runTrace_race_before_poll (hp : s.phase = BitVec.ofNat 4 (4 * c.val)) (hpub : publishes c s) :
    runTrace [notify s.cfg c, .main, .main, .main] s = .next
      (cleared c (latched c (polled c (handlerEffect c s)))) := by
  rw [runTrace_notify rfl,
    runTrace_main_poll_set _ ((handlerEffect_phase c s).trans hp) (handlerEffect_publishes_upd hpub),
    runTrace_main_read _ rfl, runTrace_main_clr _ rfl]
  rfl

/-- It falls between `POLL c` and `READ c`. -/
theorem runTrace_race_before_read (hp : s.phase = BitVec.ofNat 4 (4 * c.val)) (hu : s.upd.get c = true) :
    runTrace [.main, notify s.cfg c, .main, .main] s = .next
      (cleared c (latched c (handlerEffect c (polled c s)))) := by
  rw [runTrace_main_poll_set _ hp hu, runTrace_notify (p := s.cfg) (by simp),
    runTrace_main_read (c := c) _ (by simp), runTrace_main_clr _ rfl]
  rfl

/-- It falls between `READ c` and `CLR c`. -/
theorem runTrace_race_before_clr (hp : s.phase = BitVec.ofNat 4 (4 * c.val)) (hu : s.upd.get c = true) :
    runTrace [.main, .main, notify s.cfg c, .main] s = .next
      (cleared c (handlerEffect c (latched c (polled c s)))) := by
  rw [runTrace_main_poll_set _ hp hu, runTrace_main_read _ rfl, runTrace_notify (p := s.cfg) (by simp),
    runTrace_main_clr (c := c) _ (by simp)]
  rfl

/-- It falls after `CLR c`. -/
theorem runTrace_race_after_clr (hp : s.phase = BitVec.ofNat 4 (4 * c.val)) (hu : s.upd.get c = true) :
    runTrace [.main, .main, .main, notify s.cfg c] s = .next
      (handlerEffect c (cleared c (latched c (polled c s)))) := by
  rw [runTrace_main_poll_set _ hp hu, runTrace_main_read _ rfl, runTrace_main_clr _ rfl,
    runTrace_notify (p := s.cfg) (by simp)]
  rfl

end

/-- Settles O23: the handler publishes wherever it falls; `READ` takes the width it finds, `CLR` clears any flag. -/
theorem handoffRaceCases : Obligations.HandoffRaceCases := by
  intro s c hp hu hpub
  have hA := handlerEffect_publishes_lw hpub
  have hB := handlerEffect_publishes_lw hpub.polled
  have hC := handlerEffect_publishes_lw hpub.polled.latched
  have hD := handlerEffect_publishes_lw hpub.polled.latched.cleared
  have hflag := handlerEffect_publishes_upd hpub.polled.latched.cleared
  refine ⟨_, _, _, _, runTrace_race_before_poll hp hpub, runTrace_race_before_read hp hu,
    runTrace_race_before_clr hp hu, runTrace_race_after_clr hp hu, ?_, ?_, ?_, ?_⟩
  · simp [hA]
  · simp [hB]
  · simp [hC]
  · simp [hD, hflag]

/-! The start-up hazard (`70_reset_and_hazards.md` section 3). -/

/-- Settles O51: `POLL 0` finds no flag; `POLL 1` finds one only in `DUAL` mode, with the clock reading as the width. -/
theorem spuriousSwitchOn : Obligations.SpuriousSwitchOn := by
  intro s hs
  refine ⟨fun hm hnow => ?_, fun hm => ?_⟩
  · let u := handlerEffect 1 (resetRegisters s)
    have hphase : u.phase = BitVec.ofNat 4 (4 * (0 : Chan).val) := handlerEffect_phase 1 (resetRegisters s)
    have hclear : u.upd.get 0 = false := (handlerEffect_keeps_other_channel (by decide)).2.2
    have hset : (skipped 0 u).upd.get 1 = true := handlerEffect_publishes_upd (publishes_resetRegisters hs hm)
    let v := cleared 1 (latched 1 (polled 1 (skipped 0 u)))
    have hcw : v.cw = s.now := by simp [v, u, handlerEffect_resetRegisters_dual hs hm]
    have hv : v.phase = 7 := cleared_phase 1 _
    obtain ⟨-, hrom, hon, -, -⟩ := ipwrOperation v hv
    refine ⟨{ v with pwr := .on, outPwr := true, phase := 8 }, ?_, rfl, rfl, rfl⟩
    rw [runTrace_rst_notify, runTrace_main_poll_clear _ hphase hclear,
      runTrace_main_poll_set _ (skipped_phase 0 u) hset, runTrace_main_read _ (polled_phase 1 _),
      runTrace_main_clr _ (latched_phase 1 _), runTrace_main _ rfl hrom (hon (by rwa [hcw]))]
    rfl
  · refine ⟨skipped 1 (skipped 0 (resetRegisters s)), ?_, rfl, rfl⟩
    rw [runTrace_rst_notify, handlerEffect_resetRegisters_change hs hm,
      runTrace_main_poll_clear (c := 0) _ rfl rfl, runTrace_main_poll_clear (c := 1) _ (skipped_phase 0 _) rfl]
    rfl

end Sys2Proof.Machine
end

section
/-! PROOFS. Runs of the machine: a schedule in order (`20_memory.md` section 4), one iteration of the main loop and its
summary (`30_encoding.md` sections 6 and 7), progress, and hold (`41_handoff.md` section 2). -/

namespace Sys2Proof.Machine

/-- A machine with the actions es scheduled first runs them as a trace, whatever is scheduled after them. -/
theorem core_run_schedule (es rest : List Event) (s : State) :
    Sys2Proof.core.run es.length (s.withSched (es ++ rest)) = runTrace es (s.withSched rest) := by
  induction es generalizing s with
  | nil => rfl
  | cons e es ih =>
    have hstep : Sys2Proof.core.step (s.withSched (e :: es ++ rest)) = mapNext (·.withSched (es ++ rest)) (act e s) :=
      (step_scheduled (s := s.withSched (e :: es ++ rest)) rfl).trans (act_withSched e s (es ++ rest))
    simp only [List.length_cons, Host.Core.run, hstep, runTrace, act_withSched]
    cases act e s with
    | next t => exact ih t
    | fault r => rfl
    | refused r => rfl

/-- Settles O46: the run and the trace have one outcome. -/
theorem scheduleRunsInOrder : Obligations.ScheduleRunsInOrder := by
  rintro es _ s t rfl
  exact Eq.congr_left (core_run_schedule es s.sched s)

/-! A trace of main operations is a run of the machine. -/

/-- The lines of main operations. -/
def MainLines (es : List Event) : Prop := ∀ e ∈ es, ∃ i : Instr, i.context = .main ∧ e = opLine i

/-- Every main operation is one of every instance's. -/
theorem wf_of_main {i : Instr} (hi : i.context = .main) (p : Params) : i.wf p = true := by
  cases i with
  | edge _ | chg => cases hi
  | _ => rfl

/-- The line of a main operation runs it. -/
theorem act_opLine_of_main {i : Instr} (hi : i.context = .main) (s : State) : act (opLine i) s = exec i s :=
  runWord_ok (decode_encode (wf_of_main hi s.cfg))

/-- A main operation that completes is the turn of the main context. -/
theorem mainTurn_of_exec {i : Instr} {s t : State} (hi : i.context = .main) (h : exec i s = .next t) :
    mainTurn s = .next t := by
  by_cases hr : romWord s.phase = some (encode i)
  · rwa [mainTurn_of_rom hi hr]
  · rw [exec_off_rom hi hr] at h
    cases h

theorem core_run_of_mainLines {es : List Event} (hes : MainLines es) {s t : State} (hs : s.sched = [])
    (h : runTrace es s = .next t) : Sys2Proof.core.run es.length s = .next t := by
  induction es generalizing s with
  | nil => exact h
  | cons e es ih =>
    obtain ⟨i, hi, rfl⟩ := hes e (List.mem_cons_self ..)
    cases ha : act (opLine i) s with
    | next u =>
      rw [runTrace_cons_next ha] at h
      rw [List.length_cons, core_run_main hs (mainTurn_of_exec hi (act_opLine_of_main hi s ▸ ha))]
      exact ih (fun e he => hes e (List.mem_cons_of_mem _ he)) ((act_keeps_sched ha).trans hs) h
    | fault r => simp [runTrace, ha] at h
    | refused r => simp [runTrace, ha] at h

/-! One channel's group of the ROM. -/

/-- What the interpretation of channel c does with the consumed width. -/
def interpreted (c : Chan) (s : State) : State :=
  match c with
  | 0 => ((s.withBri (brightness s.cw.toNat)).withOutBri (brightness s.cw.toNat)).withPhase 4
  | 1 => ((s.withPwr (powerOf s.cw.toNat)).withOutPwr (powerLevel (powerOf s.cw.toNat) s.outPwr)).withPhase 8
  | 2 => (s.withHue ((hueOf s.cw.toNat).getD s.hue)).withPhase 12

theorem policyOf_context (c : Chan) : (policyOf c).context = .main := by fin_cases c <;> rfl

theorem exec_policyOf {c : Chan} {s : State} (hp : s.phase = BitVec.ofNat 4 (4 * c.val + 3)) :
    exec (policyOf c) s = .next (interpreted c s) := by
  match c with
  | 0 => exact exec_ibrt_next_iff.mpr ⟨hp, by rw [hp]; rfl⟩
  | 1 => exact exec_ipwr_next_iff.mpr ⟨hp, by rw [hp]; rfl⟩
  | 2 => exact exec_ihue_next_iff.mpr ⟨hp, by rw [hp]; rfl⟩

/-- What the group of channel c does when no handler runs in it. -/
def consumed (c : Chan) (s : State) : State :=
  if s.upd.get c then interpreted c (cleared c (latched c (polled c s))) else skipped c s

section

variable {c : Chan} {s : State} (es : List Event)

theorem runTrace_opLine {i : Instr} {t : State} (hi : i.context = .main) (ht : exec i s = .next t) :
    runTrace (opLine i :: es) s = runTrace es t :=
  runTrace_cons_next ((act_opLine_of_main hi s).trans ht)

/-- `CONSUME c`, told what the flag is, runs the group. -/
theorem runTrace_consume (hp : s.phase = BitVec.ofNat 4 (4 * c.val)) {seen : Bool} (hu : s.upd.get c = seen) :
    runTrace (consume c seen ++ es) s = runTrace es (consumed c s) := by
  subst hu
  cases hu : s.upd.get c with
  | false =>
    simp only [consumed, hu, consume, Bool.false_eq_true, if_false, List.cons_append, List.nil_append]
    exact runTrace_opLine _ rfl (exec_poll_clear hp hu)
  | true =>
    simp only [consumed, hu, consume, if_true, List.cons_append, List.nil_append]
    rw [runTrace_opLine (t := polled c s) _ rfl (exec_poll_set hp hu),
      runTrace_opLine (t := latched c (polled c s)) _ rfl (exec_read_at (polled_phase c s)),
      runTrace_opLine (t := cleared c (latched c (polled c s))) _ rfl (exec_clr_at (latched_phase c _)),
      runTrace_opLine _ (policyOf_context c) (exec_policyOf (cleared_phase c _))]

end

/-! The three groups, as one update each. -/

theorem consumed_clear {c : Chan} {s : State} (h : s.upd.get c = false) :
    consumed c s = { s with upd := s.upd.set c false, phase := BitVec.ofNat 4 (4 * c.val + 4) } := by
  have hset : s.upd.set c false = s.upd := h ▸ PerChan.set_get s.upd c
  simp [consumed, h, hset, skipped, State.withPhase]

theorem consumed_set {c : Chan} {s : State} (h : s.upd.get c = true) :
    consumed c s = interpreted c
      { s with cw := s.lw.get c, upd := s.upd.set c false, phase := BitVec.ofNat 4 (4 * c.val + 3) } := by
  simp [consumed, h, cleared, latched, polled, State.withCw, State.withUpd, State.withPhase]

section

variable (s : State)

theorem consumed_brightness : consumed 0 s = { s with
    cw := if s.upd.get 0 then s.lw.get 0 else s.cw
    upd := s.upd.set 0 false
    bri := if s.upd.get 0 then brightness (s.lw.get 0).toNat else s.bri
    outBri := if s.upd.get 0 then brightness (s.lw.get 0).toNat else s.outBri
    phase := 4 } := by
  cases h : s.upd.get 0 with
  | false => exact consumed_clear h
  | true => exact consumed_set h

theorem consumed_power : consumed 1 s = { s with
    cw := if s.upd.get 1 then s.lw.get 1 else s.cw
    upd := s.upd.set 1 false
    pwr := if s.upd.get 1 then powerOf (s.lw.get 1).toNat else s.pwr
    outPwr := if s.upd.get 1 then powerLevel (powerOf (s.lw.get 1).toNat) s.outPwr else s.outPwr
    phase := 8 } := by
  cases h : s.upd.get 1 with
  | false => exact consumed_clear h
  | true => exact consumed_set h

theorem consumed_hue : consumed 2 s = { s with
    cw := if s.upd.get 2 then s.lw.get 2 else s.cw
    upd := s.upd.set 2 false
    hue := if s.upd.get 2 then (hueOf (s.lw.get 2).toNat).getD s.hue else s.hue
    phase := 12 } := by
  cases h : s.upd.get 2 with
  | false => exact consumed_clear h
  | true => exact consumed_set h

/-- The three groups and `RGB` make the summary. -/
theorem iteration_eq : iteration s = ((consumed 2 (consumed 1 (consumed 0 s))).withOutRgb
    (hueToRGB (consumed 2 (consumed 1 (consumed 0 s))).hue)).withPhase 0 := by
  rw [consumed_brightness, consumed_power, consumed_hue]
  rfl

end

/-! The iteration. -/

theorem runTrace_loop {s : State} (hp : s.phase = 0) : runTrace (loop s) s = .next (iteration s) := by
  have h1 : (consumed 0 s).phase = 4 ∧ (consumed 0 s).upd.get 1 = s.upd.get 1 := by
    rw [consumed_brightness]
    exact ⟨rfl, rfl⟩
  have h2 : (consumed 1 (consumed 0 s)).phase = 8 ∧ (consumed 1 (consumed 0 s)).upd.get 2 = s.upd.get 2 := by
    rw [consumed_power, consumed_brightness]
    exact ⟨rfl, rfl⟩
  have h3 : (consumed 2 (consumed 1 (consumed 0 s))).phase = 12 := by rw [consumed_hue]
  rw [loop, List.append_assoc, List.append_assoc, runTrace_consume (c := 0) _ hp rfl,
    runTrace_consume (c := 1) _ h1.1 h1.2, runTrace_consume (c := 2) _ h2.1 h2.2,
    runTrace_opLine _ rfl (exec_rgb_next_iff.mpr ⟨h3, rfl⟩), iteration_eq]
  rfl

theorem consume_length (c : Chan) (seen : Bool) : (consume c seen).length = 1 + 3 * seen.toNat := by
  cases seen <;> rfl

theorem loop_length (s : State) : (loop s).length = iterationLength s := by
  simp only [loop, iterationLength, List.length_append, consume_length, List.length_singleton]
  omega

theorem mainLines_consume (c : Chan) (seen : Bool) : MainLines (consume c seen) := by
  have hpoll : ∃ i : Instr, i.context = .main ∧ opLine (.poll c) = opLine i := ⟨_, rfl, rfl⟩
  have hread : ∃ i : Instr, i.context = .main ∧ opLine (.read c) = opLine i := ⟨_, rfl, rfl⟩
  have hclr : ∃ i : Instr, i.context = .main ∧ opLine (.clr c) = opLine i := ⟨_, rfl, rfl⟩
  have hpolicy : ∃ i : Instr, i.context = .main ∧ opLine (policyOf c) = opLine i := ⟨_, policyOf_context c, rfl⟩
  cases seen <;> simp [MainLines, consume, hpoll, hread, hclr, hpolicy]

theorem mainLines_loop (s : State) : MainLines (loop s) := by
  intro e he
  simp only [loop, List.mem_append, List.mem_singleton] at he
  obtain ((he | he) | he) | rfl := he
  · exact mainLines_consume _ _ e he
  · exact mainLines_consume _ _ e he
  · exact mainLines_consume _ _ e he
  · exact ⟨.rgb, rfl, rfl⟩

/-- Settles O47: `LOOP` group by group; its lines are main operations, so the machine alone runs them too. -/
theorem iterationIsItsSummary : Obligations.IterationIsItsSummary := by
  refine fun s hp => ⟨runTrace_loop hp, fun hs => ?_⟩
  rw [← loop_length]
  exact core_run_of_mainLines (mainLines_loop s) hs (runTrace_loop hp)

/-- Settles O50: the summary of an iteration in which no flag is set. -/
theorem firstIterationAfterReset : Obligations.FirstIterationAfterReset :=
  ⟨fun p T g => (iterationIsItsSummary (State.powerOn p [] T g) rfl).2 rfl, hueToRGB_red (.inr rfl)⟩

/-! Progress. -/

/-- A main operation moves the sequencer forward in the ROM, or back to its start. -/
theorem exec_main_advances {i : Instr} {s t : State} (hi : i.context = .main) (h : exec i s = .next t) :
    t.phase = 0 ∨ (s.phase.toNat < t.phase.toNat ∧ t.phase.toNat ≤ 12) := by
  cases i with
  | edge _ | chg => cases hi
  | poll c =>
    have hp := phase_toNat c (k := 0) (by omega)
    rw [Nat.add_zero, ← (exec_poll_next_iff.mp h).1] at hp
    refine .inr ?_
    obtain ⟨-, rfl⟩ | ⟨-, rfl⟩ := exec_poll_next h <;> rw [State.withPhase_phase, phase_toNat c (by omega)] <;> omega
  | read c =>
    obtain ⟨hp, rfl⟩ := exec_read_next h
    rw [State.withPhase_phase, hp, phase_toNat c (by omega), phase_toNat c (by omega)]
    omega
  | clr c =>
    have hp := (exec_clr_next_iff.mp h).1
    obtain rfl := exec_clr_next h
    rw [State.withPhase_phase, hp, phase_toNat c (by omega), phase_toNat c (by omega)]
    omega
  | ibrt =>
    obtain ⟨hp, rfl⟩ := exec_ibrt_next_iff.mp h
    simp [hp]
  | ipwr =>
    obtain ⟨hp, rfl⟩ := exec_ipwr_next_iff.mp h
    simp [hp]
  | ihue =>
    obtain ⟨hp, rfl⟩ := exec_ihue_next_iff.mp h
    simp [hp]
  | rgb =>
    obtain ⟨-, rfl⟩ := exec_rgb_next_iff.mp h
    exact .inl rfl

/-- With n positions left to the end of the ROM, the main loop is back at its start in at most n + 1 turns. -/
theorem core_run_returns (n : Nat) {s : State} (hs : s.sched = []) (hp : s.phase.toNat ≤ 12)
    (hn : 12 - s.phase.toNat ≤ n) :
    ∃ (k : Nat) (t : State), 1 ≤ k ∧ k ≤ n + 1 ∧ Sys2Proof.core.run k s = .next t ∧ t.phase = 0 ∧ t.sched = [] := by
  induction n generalizing s with
  | zero =>
    obtain ⟨t, ht⟩ := mainTurn_completes hp
    obtain ⟨i, hi, -, hx⟩ := mainTurn_next ht
    have hback : t.phase = 0 := (exec_main_advances hi hx).resolve_right (by omega)
    exact ⟨1, t, le_rfl, le_rfl, core_run_main hs ht, hback, (exec_keeps_inputs hx).2.1.trans hs⟩
  | succ n ih =>
    obtain ⟨t, ht⟩ := mainTurn_completes hp
    obtain ⟨i, hi, -, hx⟩ := mainTurn_next ht
    have hsched : t.sched = [] := (exec_keeps_inputs hx).2.1.trans hs
    rcases exec_main_advances hi hx with hback | ⟨hlt, hle⟩
    · exact ⟨1, t, le_rfl, by omega, core_run_main hs ht, hback, hsched⟩
    · obtain ⟨k, u, hk1, hk, hrun, hu⟩ := ih hsched hle (by omega)
      exact ⟨k + 1, u, by omega, by omega, (core_run_main hs ht).trans hrun, hu⟩

/-- Settles O48: there are at most 12 positions to the end of the ROM. -/
theorem iterationEndsWithinThirteen : Obligations.IterationEndsWithinThirteen :=
  fun _ hs hp => core_run_returns 12 hs hp (Nat.sub_le _ _)

/-! Hold. -/

/-- No measurement is pending and none is scheduled, and the sequencer stands at a `POLL` or at `RGB`. -/
structure Idle (s : State) : Prop where
  sched : s.sched = []
  upd : s.upd = ⟨false, false, false⟩
  phase : (∃ c : Chan, s.phase = BitVec.ofNat 4 (4 * c.val)) ∨ s.phase = 12

/-- The consumed width, DerivedState and the brightness and power outputs are the same in both states. -/
structure Held (s t : State) : Prop where
  bri : t.bri = s.bri
  pwr : t.pwr = s.pwr
  hue : t.hue = s.hue
  cw : t.cw = s.cw
  outBri : t.outBri = s.outBri
  outPwr : t.outPwr = s.outPwr

theorem Held.refl (s : State) : Held s s := ⟨rfl, rfl, rfl, rfl, rfl, rfl⟩

theorem Held.trans {s t u : State} (h : Held s t) (h' : Held t u) : Held s u :=
  ⟨h'.bri.trans h.bri, h'.pwr.trans h.pwr, h'.hue.trans h.hue, h'.cw.trans h.cw, h'.outBri.trans h.outBri,
    h'.outPwr.trans h.outPwr⟩

theorem poll_or_rgb {p : BitVec 4} (hm : p.toNat % 4 = 0) (hp : p.toNat ≤ 12) :
    (∃ c : Chan, p = BitVec.ofNat 4 (4 * c.val)) ∨ p = 12 := by
  revert p; decide

/-- After a `POLL` that finds no flag comes the next `POLL`, or `RGB`. -/
theorem poll_or_rgb_next (c : Chan) :
    (∃ d : Chan, BitVec.ofNat 4 (4 * c.val + 4) = BitVec.ofNat 4 (4 * d.val)) ∨
      BitVec.ofNat 4 (4 * c.val + 4) = 12 := by
  revert c; decide

/-- An idle main loop stays idle and holds. -/
theorem Idle.mainTurn {s : State} (h : Idle s) : ∃ t, mainTurn s = .next t ∧ Idle t ∧ Held s t := by
  obtain ⟨c, hp⟩ | hp := h.phase
  · have hu : s.upd.get c = false := by rw [h.upd, PerChan.get_same]
    exact ⟨skipped c s, mainTurn_of_exec rfl (exec_poll_clear hp hu), ⟨h.sched, h.upd, poll_or_rgb_next c⟩,
      ⟨rfl, rfl, rfl, rfl, rfl, rfl⟩⟩
  · exact ⟨_, mainTurn_rgb hp, ⟨h.sched, h.upd, .inl ⟨0, rfl⟩⟩, ⟨rfl, rfl, rfl, rfl, rfl, rfl⟩⟩

theorem Idle.run (k : Nat) {s : State} (h : Idle s) : ∃ t, Sys2Proof.core.run k s = .next t ∧ Held s t := by
  induction k generalizing s with
  | zero => exact ⟨s, rfl, .refl s⟩
  | succ k ih =>
    obtain ⟨u, hu, hidle, hheld⟩ := h.mainTurn
    obtain ⟨t, ht, hheld'⟩ := ih hidle
    exact ⟨t, (core_run_main h.sched hu).trans ht, hheld.trans hheld'⟩

/-- Settles O49: by induction on the number of steps, each of an idle main loop. -/
theorem holdWithoutMeasurement : Obligations.HoldWithoutMeasurement := by
  intro k s hs hu hm hp
  obtain ⟨t, ht, hbri, hpwr, hhue, hcw, hob, hop⟩ := Idle.run k ⟨hs, hu, poll_or_rgb hm hp⟩
  exact ⟨t, ht, hbri, hpwr, hhue, hcw, hob, hop⟩

end Sys2Proof.Machine
end
